-- ==== Sys2Proof/Word.lean ====
section
/-! DEFINITION. The word types of the CHIP-8 core (spec 00_scope R6, R7, R8): every value is an unsigned
integer, bit 0 is the least significant. -/

namespace Sys2Proof

/-- A memory cell, a V register or an 8-bit immediate NN (R21, R34, R74). -/
abbrev Byte := BitVec 8

/-- The instruction word, the program counter, a return address, a key vector (R24, R29, R31, R70). -/
abbrev Word16 := BitVec 16

/-- The index register I and the immediate NNN (R28, R74). -/
abbrev Word12 := BitVec 12

/-- A 4-bit field: an op, a sprite height N (R71). -/
abbrev Nibble := BitVec 4

/-- The name of a V register, 0 to 15 (R21: "A register is named by a 4-bit field"). -/
abbrev Reg := Fin 16

/-- The four bits that name a register in an instruction word. -/
def Reg.bits (r : Reg) : Nibble := BitVec.ofFin r

/-- VF, the register that is also the flag output (R22). -/
abbrev Reg.flag : Reg := 15

end Sys2Proof
end

