-- ==== Sys2Proof/Config.lean ====
section
/-! DEFINITION. What one machine instance fixes (spec 00_scope R6) and the free values of the model.
The constants are fixed by the source; `Params` are the parameters a host chooses at Reset(params) (60_exceptions R230). -/

namespace Sys2Proof

/-- `MEM_SIZE`: 4096 bytes (R6). -/
abbrev memSize : Nat := 4096

/-- The highest address, 0xFFF (R34, R52). -/
abbrev maxAddr : Nat := 0xFFF

/-- `PROGRAM_START` (R6): the ROM's first address and the pc after reset. -/
abbrev programStart : Nat := 0x200

/-- `MAX_ROM` = 4096 - 0x200 bytes (R6, R253). -/
abbrev maxRom : Nat := 3584

/-- What the cycle does with a word that names no instruction (R6, R83). -/
inductive UnknownOpcodePolicy where
  | fatal
  | ignore
  deriving DecidableEq, Repr

/-- The parameters of R6 that are not fixed by the source. -/
structure Params where
  /-- `STACK_DEPTH`, at least 1 -/
  stackDepth : Nat
  /-- `FONT_BASE`, with `FONT_BASE + 80 <= 0x200` -/
  fontBase : Nat
  /-- `FONT_TABLE`, 16 glyphs of 5 bytes (10_state R36) -/
  fontTable : Vector Byte 80
  /-- `UNKNOWN_OPCODE_POLICY` -/
  policy : UnknownOpcodePolicy
  deriving DecidableEq, Repr

/-- The default `FONT_TABLE` of 10_state R36, one glyph a line, 0 to F. PRESUMED by the spec itself ("from general
knowledge, not in source", decision D20); log 4. -/
def defaultFontTable : Vector Byte 80 :=
  #v[0xF0, 0x90, 0x90, 0x90, 0xF0,
     0x20, 0x60, 0x20, 0x20, 0x70,
     0xF0, 0x10, 0xF0, 0x80, 0xF0,
     0xF0, 0x10, 0xF0, 0x10, 0xF0,
     0x90, 0x90, 0xF0, 0x10, 0x10,
     0xF0, 0x80, 0xF0, 0x10, 0xF0,
     0xF0, 0x80, 0xF0, 0x90, 0xF0,
     0xF0, 0x10, 0x20, 0x40, 0x40,
     0xF0, 0x90, 0xF0, 0x90, 0xF0,
     0xF0, 0x90, 0xF0, 0x10, 0xF0,
     0xF0, 0x90, 0xF0, 0x90, 0x90,
     0xE0, 0x90, 0xE0, 0x90, 0xE0,
     0xF0, 0x80, 0x80, 0x80, 0xF0,
     0xE0, 0x90, 0x90, 0x90, 0xE0,
     0xF0, 0x80, 0xF0, 0x80, 0xF0,
     0xF0, 0x80, 0xF0, 0x80, 0x80]

/-- The defaults of R6: depth 16 (D22), font base 0x050 (D21), the usual font (D20), policy Fatal (D7). -/
def Params.default : Params :=
  { stackDepth := 16, fontBase := 0x050, fontTable := defaultFontTable, policy := .fatal }

/-- The inputs of one cycle (30_encoding R80, 10_state R37): the key snapshot, bit k for key k, and the random byte. -/
structure CycleInput where
  keys : Word16
  rnd : Byte
  deriving DecidableEq, Repr

/-- One step of the host interface (60_exceptions R230 to R236). -/
inductive HostStep where
  /-- `Reset(params)` (R230) -/
  | reset (p : Params)
  /-- `LoadRom(bytes)` (R231) -/
  | loadRom (bytes : List Byte)
  /-- `Cycle(keys, rnd)` (R232) -/
  | cycle (input : CycleInput)
  /-- `Tick()` (R233) -/
  | tick
  /-- `Read()` (R234) -/
  | read
  /-- `Stop` (R235) -/
  | stop
  deriving DecidableEq, Repr, Inhabited

/-- FREE VALUE (log 1): what the host does next when nothing in State says it, the n-th time. "Host operations and core
cycles form one sequence of indivisible steps, in any order the host chooses ... A model leaves the order open"
(60_exceptions R238): the sequence may hold any host steps with any inputs, and need never hold another Cycle (R235). -/
opaque Config.freeHostStep : Nat → HostStep

/-- FREE VALUE (log 1): the key snapshot of a cycle that `State.withFetchWord` puts next. Nothing in the spec constrains it
(10_state R37, 93 section 1: `any value`). -/
opaque Config.freeKeys : Nat → Word16

/-- FREE VALUE (log 1): the random byte of such a cycle: "a free input of the cycle ... with no distribution and no relation
between the values of different cycles" (41_alu R131). -/
opaque Config.freeRnd : Nat → Byte

end Sys2Proof
end

