-- ==== Sys2Proof/Syntax.lean ====
section
/-! DEFINITION. The 34 instructions of base CHIP-8 (spec 00_scope R2, 30_encoding R73, R75), one constructor per
row of spec/opcode_table.json, each with the operand fields of its format. -/

namespace Sys2Proof

/-- One instruction. `x`, `y` name V registers, `nn`, `nnn`, `n` are the immediates of R74. -/
inductive Instr where
  /-- `00E0` CLS (R170) -/
  | cls
  /-- `00EE` RET (R100) -/
  | ret
  /-- `1NNN` JP nnn (R101) -/
  | jp (nnn : Word12)
  /-- `2NNN` CALL nnn (R102) -/
  | call (nnn : Word12)
  /-- `3XNN` SE Vx, nn (R103) -/
  | seImm (x : Reg) (nn : Byte)
  /-- `4XNN` SNE Vx, nn (R104) -/
  | sneImm (x : Reg) (nn : Byte)
  /-- `5XY0` SE Vx, Vy (R105) -/
  | seReg (x y : Reg)
  /-- `6XNN` LD Vx, nn (R120) -/
  | ldImm (x : Reg) (nn : Byte)
  /-- `7XNN` ADD Vx, nn (R121) -/
  | addImm (x : Reg) (nn : Byte)
  /-- `8XY0` LD Vx, Vy (R122) -/
  | ldReg (x y : Reg)
  /-- `8XY1` OR Vx, Vy (R123) -/
  | orReg (x y : Reg)
  /-- `8XY2` AND Vx, Vy (R124) -/
  | andReg (x y : Reg)
  /-- `8XY3` XOR Vx, Vy (R125) -/
  | xorReg (x y : Reg)
  /-- `8XY4` ADD Vx, Vy (R126) -/
  | addReg (x y : Reg)
  /-- `8XY5` SUB Vx, Vy (R127) -/
  | sub (x y : Reg)
  /-- `8XY6` SHR Vx, Vy (R128); y is encoded and not read -/
  | shr (x y : Reg)
  /-- `8XY7` SUBN Vx, Vy (R129) -/
  | subn (x y : Reg)
  /-- `8XYE` SHL Vx, Vy (R130); y is encoded and not read -/
  | shl (x y : Reg)
  /-- `9XY0` SNE Vx, Vy (R106) -/
  | sneReg (x y : Reg)
  /-- `ANNN` LD I, nnn (R150) -/
  | ldI (nnn : Word12)
  /-- `BNNN` JP V0, nnn (R107) -/
  | jpV0 (nnn : Word12)
  /-- `CXNN` RND Vx, nn (R131) -/
  | rnd (x : Reg) (nn : Byte)
  /-- `DXYN` DRW Vx, Vy, n (R171) -/
  | drw (x y : Reg) (n : Nibble)
  /-- `EX9E` SKP Vx (R190) -/
  | skp (x : Reg)
  /-- `EXA1` SKNP Vx (R191) -/
  | sknp (x : Reg)
  /-- `FX07` LD Vx, DT (R193) -/
  | ldVxDt (x : Reg)
  /-- `FX0A` LD Vx, K (R196) -/
  | ldVxK (x : Reg)
  /-- `FX15` LD DT, Vx (R194) -/
  | ldDtVx (x : Reg)
  /-- `FX18` LD ST, Vx (R195) -/
  | ldStVx (x : Reg)
  /-- `FX1E` ADD I, Vx (R151) -/
  | addIVx (x : Reg)
  /-- `FX29` LD F, Vx (R152) -/
  | ldFVx (x : Reg)
  /-- `FX33` LD B, Vx (R153) -/
  | ldBVx (x : Reg)
  /-- `FX55` LD [I], Vx (R154) -/
  | ldMemVx (x : Reg)
  /-- `FX65` LD Vx, [I] (R155) -/
  | ldVxMem (x : Reg)
  deriving DecidableEq, Repr

end Sys2Proof
end

