-- ==== Sys2Proof/WellFormed.lean ====
section
/-! DEFINITION. Well-formedness: of instructions (spec 10_state R21, 30_encoding R71, R74) and of the parameters a
host may give a machine instance (00_scope R6). -/

namespace Sys2Proof

/-- A register operand fits its 4-bit field. -/
def Reg.wellFormed (r : Reg) : Bool := decide (r.val < 16)

/-- Every operand of an instruction fits its encoding field. The operand TYPES already have the widths of R71 (a
register name is below 16, NN has 8 bits, NNN 12, N 4), as R21 says: "no runtime bounds violation is possible from
decoding alone". So this check accepts every instruction, and no ill-formed instruction can be written down. -/
def Instr.wellFormed : Instr → Bool
  | .cls => true
  | .ret => true
  | .jp _ => true
  | .call _ => true
  | .seImm x _ => x.wellFormed
  | .sneImm x _ => x.wellFormed
  | .seReg x y => x.wellFormed && y.wellFormed
  | .ldImm x _ => x.wellFormed
  | .addImm x _ => x.wellFormed
  | .ldReg x y => x.wellFormed && y.wellFormed
  | .orReg x y => x.wellFormed && y.wellFormed
  | .andReg x y => x.wellFormed && y.wellFormed
  | .xorReg x y => x.wellFormed && y.wellFormed
  | .addReg x y => x.wellFormed && y.wellFormed
  | .sub x y => x.wellFormed && y.wellFormed
  | .shr x y => x.wellFormed && y.wellFormed
  | .subn x y => x.wellFormed && y.wellFormed
  | .shl x y => x.wellFormed && y.wellFormed
  | .sneReg x y => x.wellFormed && y.wellFormed
  | .ldI _ => true
  | .jpV0 _ => true
  | .rnd x _ => x.wellFormed
  | .drw x y _ => x.wellFormed && y.wellFormed
  | .skp x => x.wellFormed
  | .sknp x => x.wellFormed
  | .ldVxDt x => x.wellFormed
  | .ldVxK x => x.wellFormed
  | .ldDtVx x => x.wellFormed
  | .ldStVx x => x.wellFormed
  | .addIVx x => x.wellFormed
  | .ldFVx x => x.wellFormed
  | .ldBVx x => x.wellFormed
  | .ldMemVx x => x.wellFormed
  | .ldVxMem x => x.wellFormed

/-- The constraint of R6 on `STACK_DEPTH`: "at least 1". -/
def Params.stackDepthOk (p : Params) : Bool := decide (1 ≤ p.stackDepth)

/-- The constraint of R6 on `FONT_BASE`: "with `FONT_BASE + 80 <= 0x200`". -/
def Params.fontBaseOk (p : Params) : Bool := decide (p.fontBase + 80 ≤ 0x200)

/-- The parameters a machine instance may have (R6). -/
def Params.wellFormed (p : Params) : Bool := p.stackDepthOk && p.fontBaseOk

end Sys2Proof
end

