-- ==== Sys2Proof/Decode.lean ====
section
/-! DEFINITION. The decoder and, after it, the encoder (spec 30_encoding R70 to R88). Decoding is total on any bytes
and rejects by name; a word is two bytes, the first the high byte (20_memory R55). -/

namespace Sys2Proof

/-! ### The fields of a word (R71) -/

/-- `op` = w[15:12]. -/
def opField (w : Word16) : Nibble := w.extractLsb' 12 4

/-- `N` = w[3:0]. -/
def nField (w : Word16) : Nibble := w.extractLsb' 0 4

/-- `NN` = w[7:0]. -/
def nnField (w : Word16) : Byte := w.extractLsb' 0 8

/-- `NNN` = w[11:0]. -/
def nnnField (w : Word16) : Word12 := w.extractLsb' 0 12

/-- `X` = w[11:8], a register index. -/
def xField (w : Word16) : Reg := (w.extractLsb' 8 4).toFin

/-- `Y` = w[7:4], a register index. -/
def yField (w : Word16) : Reg := (w.extractLsb' 4 4).toFin

/-! ### The dispatch (R75, R82) -/

/-- `Dispatch(w)` of R82 with the fields of R71 filled in; `none` is `Unknown` (R76). A function of the word alone (R78). -/
def decodeWord (w : Word16) : Option Instr :=
  match (opField w).toNat with
  | 0x0 => if w = 0x00E0 then some .cls else if w = 0x00EE then some .ret else none
  | 0x1 => some (.jp (nnnField w))
  | 0x2 => some (.call (nnnField w))
  | 0x3 => some (.seImm (xField w) (nnField w))
  | 0x4 => some (.sneImm (xField w) (nnField w))
  | 0x5 => if nField w = 0 then some (.seReg (xField w) (yField w)) else none
  | 0x6 => some (.ldImm (xField w) (nnField w))
  | 0x7 => some (.addImm (xField w) (nnField w))
  | 0x8 =>
    match (nField w).toNat with
    | 0x0 => some (.ldReg (xField w) (yField w))
    | 0x1 => some (.orReg (xField w) (yField w))
    | 0x2 => some (.andReg (xField w) (yField w))
    | 0x3 => some (.xorReg (xField w) (yField w))
    | 0x4 => some (.addReg (xField w) (yField w))
    | 0x5 => some (.sub (xField w) (yField w))
    | 0x6 => some (.shr (xField w) (yField w))
    | 0x7 => some (.subn (xField w) (yField w))
    | 0xE => some (.shl (xField w) (yField w))
    | _ => none
  | 0x9 => if nField w = 0 then some (.sneReg (xField w) (yField w)) else none
  | 0xA => some (.ldI (nnnField w))
  | 0xB => some (.jpV0 (nnnField w))
  | 0xC => some (.rnd (xField w) (nnField w))
  | 0xD => some (.drw (xField w) (yField w) (nField w))
  | 0xE =>
    match (nnField w).toNat with
    | 0x9E => some (.skp (xField w))
    | 0xA1 => some (.sknp (xField w))
    | _ => none
  | 0xF =>
    match (nnField w).toNat with
    | 0x07 => some (.ldVxDt (xField w))
    | 0x0A => some (.ldVxK (xField w))
    | 0x15 => some (.ldDtVx (xField w))
    | 0x18 => some (.ldStVx (xField w))
    | 0x1E => some (.addIVx (xField w))
    | 0x29 => some (.ldFVx (xField w))
    | 0x33 => some (.ldBVx (xField w))
    | 0x55 => some (.ldMemVx (xField w))
    | 0x65 => some (.ldVxMem (xField w))
    | _ => none
  | _ => none

/-! ### Bytes and words (R55) -/

/-- "first byte is high byte": the word of two consecutive bytes. -/
def wordOfBytes (hi lo : Byte) : Word16 := hi ++ lo

/-- The byte at the lower address. -/
def highByte (w : Word16) : Byte := w.extractLsb' 8 8

/-- The byte at the higher address. -/
def lowByte (w : Word16) : Byte := w.extractLsb' 0 8

/-- What the decoder answers on a list of bytes: an instruction and the bytes after it, or a rejection by name. -/
inductive Decoded where
  /-- the first two bytes are this instruction; the rest follows -/
  | instr (i : Instr) (rest : List Byte)
  /-- the first two bytes name no instruction (R76) -/
  | unknownOpcode (w : Word16)
  /-- fewer than the two bytes every instruction has (R70) -/
  | tooShort
  deriving DecidableEq, Repr

/-- "A decoder always consumes exactly 2 bytes" (R70). -/
def decode : List Byte → Decoded
  | hi :: lo :: rest =>
    match decodeWord (wordOfBytes hi lo) with
    | some i => .instr i rest
    | none => .unknownOpcode (wordOfBytes hi lo)
  | _ => .tooShort

/-- The decoder's reading of an opcode-table word: bits above `nbits` are 0, the word is laid out big-endian (R55) and
given to `decode`. -/
def decodeTableWord (nbits w : Nat) : Option Instr :=
  let word := BitVec.ofNat 16 (w % 2 ^ nbits)
  match decode [highByte word, lowByte word] with
  | .instr i _ => some i
  | .unknownOpcode _ => none
  | .tooShort => none

/-! ### The encoder, from the formats of R73 -/

/-- Format `nnn`: `oNNN`. -/
def formatNnn (o : Nibble) (nnn : Word12) : Word16 := o ++ nnn

/-- Formats `xnn` and `x`: `oXNN` and `oXss`. -/
def formatXnn (o : Nibble) (x : Reg) (nn : Byte) : Word16 := (o ++ x.bits) ++ nn

/-- Formats `xyn` and `xy`: `oXYN` and `oXYs`. -/
def formatXyn (o : Nibble) (x y : Reg) (n : Nibble) : Word16 := ((o ++ x.bits) ++ y.bits) ++ n

/-- The word of an instruction: its row of the map of R75 in its format of R73. -/
def encodeWord : Instr → Word16
  | .cls => 0x00E0
  | .ret => 0x00EE
  | .jp nnn => formatNnn 0x1 nnn
  | .call nnn => formatNnn 0x2 nnn
  | .seImm x nn => formatXnn 0x3 x nn
  | .sneImm x nn => formatXnn 0x4 x nn
  | .seReg x y => formatXyn 0x5 x y 0x0
  | .ldImm x nn => formatXnn 0x6 x nn
  | .addImm x nn => formatXnn 0x7 x nn
  | .ldReg x y => formatXyn 0x8 x y 0x0
  | .orReg x y => formatXyn 0x8 x y 0x1
  | .andReg x y => formatXyn 0x8 x y 0x2
  | .xorReg x y => formatXyn 0x8 x y 0x3
  | .addReg x y => formatXyn 0x8 x y 0x4
  | .sub x y => formatXyn 0x8 x y 0x5
  | .shr x y => formatXyn 0x8 x y 0x6
  | .subn x y => formatXyn 0x8 x y 0x7
  | .shl x y => formatXyn 0x8 x y 0xE
  | .sneReg x y => formatXyn 0x9 x y 0x0
  | .ldI nnn => formatNnn 0xA nnn
  | .jpV0 nnn => formatNnn 0xB nnn
  | .rnd x nn => formatXnn 0xC x nn
  | .drw x y n => formatXyn 0xD x y n
  | .skp x => formatXnn 0xE x 0x9E
  | .sknp x => formatXnn 0xE x 0xA1
  | .ldVxDt x => formatXnn 0xF x 0x07
  | .ldVxK x => formatXnn 0xF x 0x0A
  | .ldDtVx x => formatXnn 0xF x 0x15
  | .ldStVx x => formatXnn 0xF x 0x18
  | .addIVx x => formatXnn 0xF x 0x1E
  | .ldFVx x => formatXnn 0xF x 0x29
  | .ldBVx x => formatXnn 0xF x 0x33
  | .ldMemVx x => formatXnn 0xF x 0x55
  | .ldVxMem x => formatXnn 0xF x 0x65

/-- The two bytes of an instruction as memory holds them (R55). -/
def encode (i : Instr) : List Byte := [highByte (encodeWord i), lowByte (encodeWord i)]

/-! ### The opcode table as data (spec/opcode_table.json, R82) -/

/-- One row of spec/opcode_table.json: a word w is this row's when `(w & mask) = pat`. -/
structure OpcodeRow where
  mnemonic : String
  pat : Word16
  mask : Word16
  deriving DecidableEq, Repr

/-- `(w & mask) = match` (R82). -/
def OpcodeRow.covers (r : OpcodeRow) (w : Word16) : Bool := w &&& r.mask == r.pat

/-- The rows of spec/opcode_table.json in its order, transcribed from the table and not computed from the decoder. -/
def opcodeTable : List OpcodeRow :=
  [⟨"CLS", 0x00E0, 0xFFFF⟩, ⟨"RET", 0x00EE, 0xFFFF⟩, ⟨"JP", 0x1000, 0xF000⟩, ⟨"CALL", 0x2000, 0xF000⟩,
   ⟨"SE_IMM", 0x3000, 0xF000⟩, ⟨"SNE_IMM", 0x4000, 0xF000⟩, ⟨"SE_REG", 0x5000, 0xF00F⟩, ⟨"LD_IMM", 0x6000, 0xF000⟩,
   ⟨"ADD_IMM", 0x7000, 0xF000⟩, ⟨"LD_REG", 0x8000, 0xF00F⟩, ⟨"OR", 0x8001, 0xF00F⟩, ⟨"AND", 0x8002, 0xF00F⟩] ++
  [⟨"XOR", 0x8003, 0xF00F⟩, ⟨"ADD_REG", 0x8004, 0xF00F⟩, ⟨"SUB", 0x8005, 0xF00F⟩, ⟨"SHR", 0x8006, 0xF00F⟩,
   ⟨"SUBN", 0x8007, 0xF00F⟩, ⟨"SHL", 0x800E, 0xF00F⟩, ⟨"SNE_REG", 0x9000, 0xF00F⟩, ⟨"LD_I", 0xA000, 0xF000⟩,
   ⟨"JP_V0", 0xB000, 0xF000⟩, ⟨"RND", 0xC000, 0xF000⟩, ⟨"DRW", 0xD000, 0xF000⟩] ++
  [⟨"SKP", 0xE09E, 0xF0FF⟩, ⟨"SKNP", 0xE0A1, 0xF0FF⟩, ⟨"LD_VX_DT", 0xF007, 0xF0FF⟩, ⟨"LD_VX_K", 0xF00A, 0xF0FF⟩,
   ⟨"LD_DT_VX", 0xF015, 0xF0FF⟩, ⟨"LD_ST_VX", 0xF018, 0xF0FF⟩, ⟨"ADD_I_VX", 0xF01E, 0xF0FF⟩,
   ⟨"LD_F_VX", 0xF029, 0xF0FF⟩, ⟨"LD_B_VX", 0xF033, 0xF0FF⟩, ⟨"LD_MEM_VX", 0xF055, 0xF0FF⟩,
   ⟨"LD_VX_MEM", 0xF065, 0xF0FF⟩]

/-- An instruction's row name in spec/opcode_table.json (the names R82 dispatches to). -/
def Instr.mnemonic : Instr → String
  | .cls => "CLS"
  | .ret => "RET"
  | .jp _ => "JP"
  | .call _ => "CALL"
  | .seImm _ _ => "SE_IMM"
  | .sneImm _ _ => "SNE_IMM"
  | .seReg _ _ => "SE_REG"
  | .ldImm _ _ => "LD_IMM"
  | .addImm _ _ => "ADD_IMM"
  | .ldReg _ _ => "LD_REG"
  | .orReg _ _ => "OR"
  | .andReg _ _ => "AND"
  | .xorReg _ _ => "XOR"
  | .addReg _ _ => "ADD_REG"
  | .sub _ _ => "SUB"
  | .shr _ _ => "SHR"
  | .subn _ _ => "SUBN"
  | .shl _ _ => "SHL"
  | .sneReg _ _ => "SNE_REG"
  | .ldI _ => "LD_I"
  | .jpV0 _ => "JP_V0"
  | .rnd _ _ => "RND"
  | .drw _ _ _ => "DRW"
  | .skp _ => "SKP"
  | .sknp _ => "SKNP"
  | .ldVxDt _ => "LD_VX_DT"
  | .ldVxK _ => "LD_VX_K"
  | .ldDtVx _ => "LD_DT_VX"
  | .ldStVx _ => "LD_ST_VX"
  | .addIVx _ => "ADD_I_VX"
  | .ldFVx _ => "LD_F_VX"
  | .ldBVx _ => "LD_B_VX"
  | .ldMemVx _ => "LD_MEM_VX"
  | .ldVxMem _ => "LD_VX_MEM"

/-! ### Assembler spelling (R79) -/

/-- One upper-case hex digit. -/
def hexDigit (n : Nat) : Char := ((n % 16).digitChar).toUpper

/-- `Vx`: V0 to VF. -/
def regText (r : Reg) : String := String.ofList ['V', hexDigit r.val]

/-- A value written with `k` hex digits after 0x. -/
def hexText (k n : Nat) : String :=
  String.ofList ('0' :: 'x' :: (List.range k).map (fun j => hexDigit (n / 16 ^ (k - 1 - j))))

/-- The usual CHIP-8 spelling of R79, operands included. -/
def Instr.asm : Instr → String
  | .cls => "CLS"
  | .ret => "RET"
  | .jp nnn => "JP " ++ hexText 3 nnn.toNat
  | .call nnn => "CALL " ++ hexText 3 nnn.toNat
  | .seImm x nn => "SE " ++ regText x ++ ", " ++ hexText 2 nn.toNat
  | .sneImm x nn => "SNE " ++ regText x ++ ", " ++ hexText 2 nn.toNat
  | .seReg x y => "SE " ++ regText x ++ ", " ++ regText y
  | .ldImm x nn => "LD " ++ regText x ++ ", " ++ hexText 2 nn.toNat
  | .addImm x nn => "ADD " ++ regText x ++ ", " ++ hexText 2 nn.toNat
  | .ldReg x y => "LD " ++ regText x ++ ", " ++ regText y
  | .orReg x y => "OR " ++ regText x ++ ", " ++ regText y
  | .andReg x y => "AND " ++ regText x ++ ", " ++ regText y
  | .xorReg x y => "XOR " ++ regText x ++ ", " ++ regText y
  | .addReg x y => "ADD " ++ regText x ++ ", " ++ regText y
  | .sub x y => "SUB " ++ regText x ++ ", " ++ regText y
  | .shr x y => "SHR " ++ regText x ++ ", " ++ regText y
  | .subn x y => "SUBN " ++ regText x ++ ", " ++ regText y
  | .shl x y => "SHL " ++ regText x ++ ", " ++ regText y
  | .sneReg x y => "SNE " ++ regText x ++ ", " ++ regText y
  | .ldI nnn => "LD I, " ++ hexText 3 nnn.toNat
  | .jpV0 nnn => "JP V0, " ++ hexText 3 nnn.toNat
  | .rnd x nn => "RND " ++ regText x ++ ", " ++ hexText 2 nn.toNat
  | .drw x y n => "DRW " ++ regText x ++ ", " ++ regText y ++ ", " ++ toString n.toNat
  | .skp x => "SKP " ++ regText x
  | .sknp x => "SKNP " ++ regText x
  | .ldVxDt x => "LD " ++ regText x ++ ", DT"
  | .ldVxK x => "LD " ++ regText x ++ ", K"
  | .ldDtVx x => "LD DT, " ++ regText x
  | .ldStVx x => "LD ST, " ++ regText x
  | .addIVx x => "ADD I, " ++ regText x
  | .ldFVx x => "LD F, " ++ regText x
  | .ldBVx x => "LD B, " ++ regText x
  | .ldMemVx x => "LD [I], " ++ regText x
  | .ldVxMem x => "LD " ++ regText x ++ ", [I]"

end Sys2Proof
end

