-- ==== Sys2Proof/Machine/State.lean ====
section
/-! DEFINITION. The state of one machine instance (spec 10_state R20 to R42), the state after reset (70_reset R250), and
the reasons a step can stop. State is plain data. -/

namespace Sys2Proof.Machine

/-- `mem` (10_state R34): the listed bytes, addresses strictly rising, each different from what an unlisted address
reads as (the reset contents of R250, `initialByte` of Machine/Ops.lean). -/
abbrev Memory := List Host.Cell

/-- `disp` (10_state R33): 32 rows of 64 one-bit cells; bit x of row y is the cell in column x. -/
abbrev Display := Vector (BitVec 64) 32

/-- The five error kinds (60_exceptions R210). -/
inductive ErrKind where
  /-- a ROM longer than 3584 bytes, by the host's LoadRom (R215) -/
  | romTooLarge
  /-- an address of a fetch or of a data access above 0xFFF (R211) -/
  | memoryOutOfBounds
  /-- CALL with the stack at STACK_DEPTH (R212) -/
  | stackOverflow
  /-- RET with the stack empty (R213) -/
  | stackUnderflow
  /-- a word that names no instruction, under policy Fatal (R214) -/
  | unknownOpcode
  deriving DecidableEq, Repr

/-- The error record `Err(kind, pc, opcode, addr, len)` (60_exceptions R216). -/
structure ErrRecord where
  kind : ErrKind
  /-- the fetch address, or the address of the instruction, or the pc at the load -/
  pc : Word16
  /-- the word, for an instruction error -/
  opcode : Option Word16
  /-- the lowest out-of-range address, for MemoryOutOfBounds -/
  addr : Option Nat
  /-- the ROM's byte length, for RomTooLarge -/
  len : Option Nat
  deriving DecidableEq, Repr

/-- The machine. The first ten fields are the record of 10_state R20; the others are the MODEL's own, each named in
INVENTORY.md and in the assumption log. -/
structure State where
  /-- `V[0..15]` (R21) -/
  v : Vector Byte 16
  /-- `pc`, the address of the next instruction word (R24) -/
  pc : Word16
  /-- `I`, the index register (R28) -/
  i : Word12
  /-- `stack`, return addresses, top at the end (R29) -/
  stack : List Word16
  /-- `DT`, the delay timer (R30) -/
  dt : Byte
  /-- `ST`, the sound timer (R30) -/
  st : Byte
  /-- `mem` (R34) -/
  mem : Memory
  /-- `disp` (R33) -/
  disp : Display
  /-- `wait`, the awaiting-input state with its key baseline (R31) -/
  wait : Option Word16
  /-- `err`, the recorded error (R32) -/
  err : Option ErrRecord
  /-- MODEL (log 3): the parameters of this instance, fixed from one Reset to the next (00_scope R6) -/
  params : Params
  /-- MODEL (log 2): the host steps still to come, the next one first (60_exceptions R238) -/
  schedule : List HostStep
  /-- MODEL (log 2): the host steps that come over and over once the schedule is used up; when there are none, what the
  host does next is a free value -/
  standing : List HostStep
  /-- MODEL (log 1): how many free values have been drawn -/
  freeIndex : Nat
  /-- MODEL (log 1): the inputs of the current cycle, written at the start of every cycle (R80) -/
  input : CycleInput
  /-- MODEL (log 9): the output `drew` of the last cycle (30_encoding R86) -/
  drew : Bool
  /-- MODEL (log 10): no cycle and no load since Reset, so LoadRom is admitted (70_reset R253) -/
  fresh : Bool
  deriving DecidableEq, Repr

/-- A step that does not exist. -/
inductive Fault where
  /-- Raised by the cycle when the host asks for one while `err != none`: "the core has no step" (30_encoding R85; 93
  section 1: stuck). SAFE: nothing can be proved of a run past it. -/
  | stoppedOnError
  deriving DecidableEq, Repr

/-- A step the model gives no meaning. -/
inductive Refusal where
  /-- An arm of `exec` that has no meaning yet. SAFE. No arm uses it now. -/
  | notModelled (mnemonic : String)
  /-- Raised by the host step LoadRom after a cycle or an earlier load: "The load is admitted only on a freshly reset
  machine" (70_reset R253, D27). SAFE (log 10). -/
  | loadNotAdmitted
  /-- Raised by the host step Reset on parameters that 00_scope R6 excludes (stack depth 0, a font that does not end
  below 0x200). SAFE (log 11). -/
  | parametersNotAdmitted
  deriving DecidableEq, Repr

/-- The state `Reset(params)` builds (70_reset R250, 10_state R41). Memory lists nothing: an unlisted byte reads as the
reset contents. The model's own fields take the values of log 6. -/
def State.resetWith (p : Params) : State :=
  { v := Vector.replicate 16 0
    pc := 0x200
    i := 0
    stack := []
    dt := 0
    st := 0
    mem := []
    disp := Vector.replicate 32 0
    wait := none
    err := none
    params := p
    schedule := []
    standing := []
    freeIndex := 0
    input := { keys := 0, rnd := 0 }
    drew := false
    fresh := true }

/-- The machine right after reset with the default parameters of 00_scope R6. -/
def State.reset : State := State.resetWith Params.default

/-! ### Plain field updates -/

def State.setRegs (s : State) (x : Vector Byte 16) : State := { s with v := x }
def State.setPc (s : State) (x : Word16) : State := { s with pc := x }
def State.setI (s : State) (x : Word12) : State := { s with i := x }
def State.setStack (s : State) (x : List Word16) : State := { s with stack := x }
def State.setDt (s : State) (x : Byte) : State := { s with dt := x }
def State.setSt (s : State) (x : Byte) : State := { s with st := x }
def State.setMem (s : State) (x : Memory) : State := { s with mem := x }
def State.setDisp (s : State) (x : Display) : State := { s with disp := x }
def State.setWait (s : State) (x : Option Word16) : State := { s with wait := x }
def State.setErr (s : State) (x : Option ErrRecord) : State := { s with err := x }
def State.setSchedule (s : State) (x : List HostStep) : State := { s with schedule := x }
def State.setStanding (s : State) (x : List HostStep) : State := { s with standing := x }
def State.setFreeIndex (s : State) (x : Nat) : State := { s with freeIndex := x }
def State.setInput (s : State) (x : CycleInput) : State := { s with input := x }
def State.setDrew (s : State) (x : Bool) : State := { s with drew := x }
def State.setFresh (s : State) (x : Bool) : State := { s with fresh := x }

end Sys2Proof.Machine
end

