-- ==== Sys2Proof/Machine/Ops.lean ====
section
/-! DEFINITION. The named operations over memory, registers, the stack, the display and the error record that every
meaning is written with (spec 10_state, 20_memory, 30_encoding R84, 60_exceptions R216). -/

namespace Sys2Proof.Machine

/-! ### Memory (20_memory) -/

/-- The reset contents (10_state R40, R41; 70_reset R250): `FONT_TABLE` at `FONT_BASE`, zero elsewhere. It is what an
unlisted address reads as. -/
def initialByte (p : Params) (a : Nat) : Byte :=
  if h : p.fontBase ≤ a ∧ a < p.fontBase + 80 then p.fontTable[a - p.fontBase]'(by omega) else 0

/-- The byte at an address: the listed one, else the reset contents. -/
def Memory.read (p : Params) : Memory → Nat → Byte
  | [], a => initialByte p a
  | (k, b) :: rest, a => if a = k then b else Memory.read p rest a

/-- The listing without address `a`. -/
def Memory.erase (m : Memory) (a : Nat) : Memory := m.filter fun c => c.1 != a

/-- The listing with `(a, b)` put before the first higher address. -/
def Memory.insert : Memory → Nat → Byte → Memory
  | [], a, b => [(a, b)]
  | (k, c) :: rest, a, b => if a < k then (a, b) :: (k, c) :: rest else (k, c) :: Memory.insert rest a b

/-- `MemWrite(a, 1, v)` on the listing (20_memory R53): nothing changes at an address above 0xFFF; writing what the
address reads as when unlisted takes it off the list, so that equal memories are equal data. -/
def Memory.write (p : Params) (m : Memory) (a : Nat) (b : Byte) : Memory :=
  if maxAddr < a then m
  else if b = initialByte p a then Memory.erase m a
  else Memory.insert (Memory.erase m a) a b

/-- The canonical form of the listing: addresses strictly rising and in range, no entry equal to what its address reads
as when unlisted. -/
abbrev Memory.wf (p : Params) (m : Memory) : Prop :=
  m.Pairwise (fun c d => c.1 < d.1) ∧ ∀ c ∈ m, c.1 ≤ maxAddr ∧ c.2 ≠ initialByte p c.1

/-- `mem[a]` (20_memory R52, R58). Every use is behind `checkRange`, so that `a <= 0xFFF`. -/
def State.readByte (s : State) (a : Nat) : Byte := Memory.read s.params s.mem a

/-- `mem[a] <- b` (20_memory R53). -/
def State.writeByte (s : State) (a : Nat) (b : Byte) : State := s.setMem (Memory.write s.params s.mem a b)

/-- The bytes at `base .. base + n - 1`, lowest address first. -/
def State.loadBytes (s : State) (base n : Nat) : List Byte := (List.range n).map fun j => s.readByte (base + j)

/-- Bytes written at `base`, `base + 1`, … in that order. -/
def State.storeBytes (s : State) (base : Nat) : List Byte → State
  | [] => s
  | b :: rest => (s.writeByte base b).storeBytes (base + 1) rest

/-- `CheckRange(base, n)` (20_memory R54): `none` when the whole range is in memory, else the lowest address of it that
is out of bounds. -/
def checkRange (base n : Nat) : Option Nat :=
  if 1 ≤ n ∧ maxAddr < base + n - 1 then some (max base 0x1000) else none

/-! ### Registers (10_state R21, R28, R29) -/

/-- `V[r]`. -/
def State.getV (s : State) (r : Reg) : Byte := s.v[r.val]

/-- `V[r] <- b`. -/
def State.setV (s : State) (r : Reg) (b : Byte) : State := s.setRegs (s.v.set r.val b)

/-- `V[0] <- b0, V[1] <- b1, …` from register number `k` up; a list longer than the register file is cut off. -/
def State.setVs (s : State) (k : Nat) : List Byte → State
  | [] => s
  | b :: rest => (if h : k < 16 then s.setV ⟨k, h⟩ b else s).setVs (k + 1) rest

/-- `pc <- pc + 2`: the advance before execute (R25). -/
def State.advancePc (s : State) : State := s.setPc (s.pc + 2)

/-- The address of the instruction being executed: the cycle has advanced pc past it (R25), so it is `pc - 2` (R196's
`a0`). -/
def State.instrAddr (s : State) : Word16 := s.pc - 2

/-- `stack <- stack ++ [pc]` (40_control_flow R102). -/
def State.pushPc (s : State) : State := s.setStack (s.stack ++ [s.pc])

/-! ### The display (10_state R33) -/

/-- `disp[x][y] = 1`. -/
def Display.cell (d : Display) (x : Fin 64) (y : Fin 32) : Bool := d[y.val].getLsbD x.val

/-- `disp[x][y] <- disp[x][y] ^ 1`. -/
def Display.flip (d : Display) (x : Fin 64) (y : Fin 32) : Display := d.set y.val (d[y.val] ^^^ BitVec.twoPow 64 x.val)

/-- Every cell unset. -/
def Display.clear : Display := Vector.replicate 32 0

/-! ### Recording an error (30_encoding R84, 60_exceptions R216, R219)

This is the only way an error is taken. There is no handler, no vector and no return from it (R219, R220): the machine
takes no further cycle, and only the host's Reset clears `err` (Machine/HostOps.lean). -/

/-- `err <- some(E)`. -/
def State.recordError (s : State) (e : ErrRecord) : State := s.setErr (some e)

/-- `raise kind(addr)` in the instruction whose word is `w` (R84): run on the state the executor was handed, which
differs from the state before the cycle in pc alone, it undoes the advance and records the error. No other write of the
instruction takes effect. -/
def State.raise (s : State) (kind : ErrKind) (w : Word16) (addr : Option Nat) : State :=
  (s.setPc s.instrAddr).recordError
    { kind := kind, pc := s.instrAddr, opcode := some w, addr := addr, len := none }

/-- An instruction of word `w` that touches `n` bytes from `base` (20_memory R54): with the whole range in memory it
gives `t`, else it raises MemoryOutOfBounds and writes nothing. -/
def State.withRange (s : State) (w : Word16) (base n : Nat) (t : State) : State :=
  match checkRange base n with
  | none => t
  | some a => s.raise .memoryOutOfBounds w (some a)

/-- The code of an error kind (60_exceptions R210, decision D5). -/
def ErrKind.code : ErrKind → Nat
  | .romTooLarge => 1
  | .memoryOutOfBounds => 2
  | .stackOverflow => 3
  | .stackUnderflow => 4
  | .unknownOpcode => 5

end Sys2Proof.Machine
end

