-- ==== Sys2Proof/Machine/Operands.lean ====
section
/-! DEFINITION. The operand forms (spec 30_encoding R74): registers, immediates, the register range of FX55 and FX65, the
decimal digits of FX33, the key named by a register, the cells a sprite covers. -/

namespace Sys2Proof.Machine

/-- NNN as a pc value, "zero-extended to 16 bits" (40_control_flow R101). -/
def addrOfNnn (nnn : Word12) : Word16 := nnn.setWidth 16

/-- `NNN + V[0]`, the "natural sum, 0 .. 0x10FE, held in 16 bits" (40_control_flow R107). -/
def addrOfSum (nnn : Word12) (v0 : Byte) : Word16 := BitVec.ofNat 16 (nnn.toNat + v0.toNat)

/-- The values of V[0] to V[x], V0 first: "X is also a count: registers V0 to V[X]" (R74). -/
def State.regsUpTo (s : State) (x : Reg) : List Byte := s.v.toList.take (x.val + 1)

/-- The number of registers in V[0] to V[x]. -/
def regCount (x : Reg) : Nat := x.val + 1

/-- The three decimal digits of a byte, hundreds first (42_index_memory R153; the order is the spec's D13). -/
def decimalDigits (b : Byte) : List Byte :=
  [BitVec.ofNat 8 (b.toNat / 100), BitVec.ofNat 8 (b.toNat / 10 % 10), BitVec.ofNat 8 (b.toNat % 10)]

/-- `(i + vx) mod 4096` (42_index_memory R151). -/
def indexSum (i : Word12) (vx : Byte) : Word12 := BitVec.ofNat 12 (i.toNat + vx.toNat)

/-- `FONT_BASE + 5 * vx` (42_index_memory R152), exact for every admitted `FONT_BASE`. -/
def glyphAddr (p : Params) (vx : Byte) : Word12 := BitVec.ofNat 12 (p.fontBase + 5 * vx.toNat)

/-! ### Keys (44_input_timers) -/

/-- `KeyDown(keys, k)` is `k <= 15 and keys[k] = 1` (R192). -/
def keyDown (keys : Word16) (k : Byte) : Bool := decide (k.toNat ≤ 15) && keys.getLsbD k.toNat

/-- `min(new)` for the keys "up in B, down now" (R196): the lowest-numbered newly pressed key. -/
def newlyPressed (keys baseline : Word16) : Option Nat :=
  (List.range 16).find? fun k => keys.getLsbD k && !baseline.getLsbD k

/-! ### Sprites (43_display) -/

/-- Sprite bit of column offset `c` in a row byte: "bit 7 is the leftmost column (offset c = 0)" (R172). -/
def spriteBit (row : Byte) (c : Nat) : Bool := row.getLsbD (7 - c)

/-- The column `(x0 + c) mod 64` (R171). -/
def spriteCol (x0 c : Nat) : Fin 64 := ⟨(x0 + c) % 64, Nat.mod_lt _ (by decide)⟩

/-- The row `(y0 + r) mod 32` (R171). -/
def spriteRow (y0 r : Nat) : Fin 32 := ⟨(y0 + r) % 32, Nat.mod_lt _ (by decide)⟩

/-- The cells of the 1-bits of one sprite row, at row offset `r`, column offset 0 first (R171's inner loop). -/
def rowCells (x0 y0 r : Nat) (row : Byte) : List (Fin 64 × Fin 32) :=
  ((List.range 8).filter (spriteBit row)).map fun c => (spriteCol x0 c, spriteRow y0 r)

/-- The cells of the 1-bits of a sprite whose first row has row offset `r`, in the order of R171's two loops. -/
def spriteCells (x0 y0 r : Nat) : List Byte → List (Fin 64 × Fin 32)
  | [] => []
  | row :: rest => rowCells x0 y0 r row ++ spriteCells x0 y0 (r + 1) rest

end Sys2Proof.Machine
end

