-- ==== Sys2Proof/Machine/Flags.lean ====
section
/-! DEFINITION. The flag computations (spec 10_state R35), each beside the result it goes with: operands as natural
numbers, the exact result, then the narrowing (00_scope R8, 41_alu R132). -/

namespace Sys2Proof.Machine

/-- A flag as VF holds it: 1 or 0. -/
def flagByte (f : Bool) : Byte := if f then 1 else 0

/-- `(a + b) mod 256` (41_alu R121, R126). -/
def sumByte (a b : Byte) : Byte := BitVec.ofNat 8 (a.toNat + b.toNat)

/-- The carry out of bit 7: `a + b > 255` (R126). -/
def carryOut (a b : Byte) : Bool := decide (255 < a.toNat + b.toNat)

/-- `(a + 256 - b) mod 256` (R127, R129). -/
def diffByte (a b : Byte) : Byte := BitVec.ofNat 8 (a.toNat + 256 - b.toNat)

/-- No borrow: minuend `a` >= subtrahend `b`, "never the inverted convention" (R127, R129). -/
def noBorrow (a b : Byte) : Bool := decide (b.toNat ≤ a.toNat)

/-- `a >> 1`; "bit 7 becomes 0" (R128). -/
def shiftRightByte (a : Byte) : Byte := BitVec.ofNat 8 (a.toNat / 2)

/-- The bit shifted out on the right, `a & 1` (R128). -/
def lowBitOut (a : Byte) : Bool := a.getLsbD 0

/-- `(a << 1) mod 256`; "bit 0 becomes 0" (R130). -/
def shiftLeftByte (a : Byte) : Byte := BitVec.ofNat 8 (a.toNat * 2)

/-- The bit shifted out on the left, `(a >> 7) & 1` (R130). -/
def highBitOut (a : Byte) : Bool := a.getLsbD 7

/-- The result, then the flag: V[x] is written first and VF last, "so when X = F the flag is what remains in VF"
(41_alu's header, D10). -/
def State.setResultFlag (s : State) (x : Reg) (result : Byte) (flag : Bool) : State :=
  (s.setV x result).setV Reg.flag (flagByte flag)

/-- The sprite's cells flipped one by one, and whether one of them turned from set to unset (43_display R171's loop
body). -/
def flipCells : Display → Bool → List (Fin 64 × Fin 32) → Display × Bool
  | d, hit, [] => (d, hit)
  | d, hit, (x, y) :: rest => flipCells (Display.flip d x y) (hit || Display.cell d x y) rest

end Sys2Proof.Machine
end

