-- ==== Sys2Proof/Machine/Alu.lean ====
section
/-! DEFINITION. Register and arithmetic instructions (spec 41_alu). None touches memory, the stack, I, the timers or pc, and
none raises an error. Operands are read before any write (00_scope R10). -/

namespace Sys2Proof.Machine

/-- LD Vx, nn, R120. -/
def execLdImm (x : Reg) (nn : Byte) (s : State) : Host.Outcome State Fault Refusal :=
  .next (s.setV x nn)

/-- ADD Vx, nn, R121: "wrapping mod 256, VF unaffected". -/
def execAddImm (x : Reg) (nn : Byte) (s : State) : Host.Outcome State Fault Refusal :=
  .next (s.setV x (sumByte (s.getV x) nn))

/-- LD Vx, Vy, R122. -/
def execLdReg (x y : Reg) (s : State) : Host.Outcome State Fault Refusal :=
  .next (s.setV x (s.getV y))

/-- OR, R123; VF is not reset (D9). -/
def execOr (x y : Reg) (s : State) : Host.Outcome State Fault Refusal :=
  .next (s.setV x (s.getV x ||| s.getV y))

/-- AND, R124; VF is not reset (D9). -/
def execAnd (x y : Reg) (s : State) : Host.Outcome State Fault Refusal :=
  .next (s.setV x (s.getV x &&& s.getV y))

/-- XOR, R125; VF is not reset (D9). -/
def execXor (x y : Reg) (s : State) : Host.Outcome State Fault Refusal :=
  .next (s.setV x (s.getV x ^^^ s.getV y))

/-- ADD Vx, Vy, R126: the sum, then VF = carry out. -/
def execAddReg (x y : Reg) (s : State) : Host.Outcome State Fault Refusal :=
  .next (s.setResultFlag x (sumByte (s.getV x) (s.getV y)) (carryOut (s.getV x) (s.getV y)))

/-- SUB, R127: V[x] - V[y], then VF = no borrow. -/
def execSub (x y : Reg) (s : State) : Host.Outcome State Fault Refusal :=
  .next (s.setResultFlag x (diffByte (s.getV x) (s.getV y)) (noBorrow (s.getV x) (s.getV y)))

/-- SHR, R128: V[x] one bit right, then VF = the bit shifted out. V[y] "is encoded but not read". -/
def execShr (x _y : Reg) (s : State) : Host.Outcome State Fault Refusal :=
  .next (s.setResultFlag x (shiftRightByte (s.getV x)) (lowBitOut (s.getV x)))

/-- SUBN, R129: V[y] - V[x], then VF = no borrow. -/
def execSubn (x y : Reg) (s : State) : Host.Outcome State Fault Refusal :=
  .next (s.setResultFlag x (diffByte (s.getV y) (s.getV x)) (noBorrow (s.getV y) (s.getV x)))

/-- SHL, R130: V[x] one bit left, then VF = the bit shifted out. V[y] "is encoded but not read". -/
def execShl (x _y : Reg) (s : State) : Host.Outcome State Fault Refusal :=
  .next (s.setResultFlag x (shiftLeftByte (s.getV x)) (highBitOut (s.getV x)))

/-- RND, R131: `rnd & NN`, rnd the byte given to this cycle. -/
def execRnd (x : Reg) (nn : Byte) (s : State) : Host.Outcome State Fault Refusal :=
  .next (s.setV x (s.input.rnd &&& nn))

end Sys2Proof.Machine
end

