-- ==== Sys2Proof/Machine/ControlFlow.lean ====
section
/-! DEFINITION. Control flow (spec 40_control_flow). Every meaning runs on the state the cycle hands to the executor: the
inputs are latched and `pc` is `a + 2` (10_state R25). -/

namespace Sys2Proof.Machine

/-- `if c: pc <- pc + 2`; otherwise nothing (R103 to R106, R190, R191). The skipped word is never fetched (R110). -/
def State.skipIf (s : State) (c : Bool) : State := s.setPc (if c then s.pc + 2 else s.pc)

/-- RET, R100: the last return address into pc and off the stack; StackUnderflow when the stack is empty. -/
def execRet (s : State) : Host.Outcome State Fault Refusal :=
  match s.stack.getLast? with
  | none => .next (s.raise .stackUnderflow (encodeWord .ret) none)
  | some a => .next ((s.setPc a).setStack s.stack.dropLast)

/-- JP, R101: `pc <- NNN`. -/
def execJp (nnn : Word12) (s : State) : Host.Outcome State Fault Refusal :=
  .next (s.setPc (addrOfNnn nnn))

/-- CALL, R102: pushes pc, "the already-advanced return address", then `pc <- NNN`; StackOverflow when the stack already
holds STACK_DEPTH entries (more than that no run reaches, R42). -/
def execCall (nnn : Word12) (s : State) : Host.Outcome State Fault Refusal :=
  if s.params.stackDepth ≤ s.stack.length then .next (s.raise .stackOverflow (encodeWord (.call nnn)) none)
  else .next (s.pushPc.setPc (addrOfNnn nnn))

/-- SE Vx, nn, R103. -/
def execSeImm (x : Reg) (nn : Byte) (s : State) : Host.Outcome State Fault Refusal :=
  .next (s.skipIf (s.getV x == nn))

/-- SNE Vx, nn, R104. -/
def execSneImm (x : Reg) (nn : Byte) (s : State) : Host.Outcome State Fault Refusal :=
  .next (s.skipIf (s.getV x != nn))

/-- SE Vx, Vy, R105. -/
def execSeReg (x y : Reg) (s : State) : Host.Outcome State Fault Refusal :=
  .next (s.skipIf (s.getV x == s.getV y))

/-- SNE Vx, Vy, R106. -/
def execSneReg (x y : Reg) (s : State) : Host.Outcome State Fault Refusal :=
  .next (s.skipIf (s.getV x != s.getV y))

/-- JP V0, nnn, R107: the sum is not wrapped to 12 bits (D2). -/
def execJpV0 (nnn : Word12) (s : State) : Host.Outcome State Fault Refusal :=
  .next (s.setPc (addrOfSum nnn (s.getV 0)))

end Sys2Proof.Machine
end

