-- ==== Sys2Proof/Machine/DisplayOps.lean ====
section
/-! DEFINITION. Display instructions (spec 43_display). A completed CLS or DRW reports `drew` (30_encoding R86). -/

namespace Sys2Proof.Machine

/-- CLS, R170: every cell unset, VF not changed. -/
def execCls (s : State) : Host.Outcome State Fault Refusal :=
  .next ((s.setDisp Display.clear).setDrew true)

/-- The effect of DRW with its range in memory (R171): coordinates and I are read before VF is written (D15); every
1-bit of the sprite flips its cell; VF = 1 exactly when a cell turned from set to unset. -/
def State.drawSprite (s : State) (x y : Reg) (n : Nat) : State :=
  let cells := spriteCells (s.getV x).toNat (s.getV y).toNat 0 (s.loadBytes s.i.toNat n)
  let drawn := flipCells s.disp false cells
  ((s.setDisp drawn.1).setV Reg.flag (flagByte drawn.2)).setDrew true

/-- DRW, R171: MemoryOutOfBounds when the N sprite rows do not all lie in memory; no check when N = 0. -/
def execDrw (x y : Reg) (n : Nibble) (s : State) : Host.Outcome State Fault Refusal :=
  .next (s.withRange (encodeWord (.drw x y n)) s.i.toNat n.toNat (s.drawSprite x y n.toNat))

end Sys2Proof.Machine
end

