-- ==== Sys2Proof/Machine/IndexMemory.lean ====
section
/-! DEFINITION. Index and memory instructions (spec 42_index_memory). The base of every access is I as a natural number; a
range that leaves memory raises MemoryOutOfBounds and writes nothing (20_memory R54). -/

namespace Sys2Proof.Machine

/-- LD I, nnn, R150. -/
def execLdI (nnn : Word12) (s : State) : Host.Outcome State Fault Refusal :=
  .next (s.setI nnn)

/-- ADD I, Vx, R151: 12-bit wrap, VF not written (D11). -/
def execAddIVx (x : Reg) (s : State) : Host.Outcome State Fault Refusal :=
  .next (s.setI (indexSum s.i (s.getV x)))

/-- LD F, Vx, R152: V[x] is not reduced to a nibble. -/
def execLdFVx (x : Reg) (s : State) : Host.Outcome State Fault Refusal :=
  .next (s.setI (glyphAddr s.params (s.getV x)))

/-- LD B, Vx, R153: hundreds, tens, ones at I, I+1, I+2; I is not changed. -/
def execLdBVx (x : Reg) (s : State) : Host.Outcome State Fault Refusal :=
  .next (s.withRange (encodeWord (.ldBVx x)) s.i.toNat 3
    (s.storeBytes s.i.toNat (decimalDigits (s.getV x))))

/-- LD [I], Vx, R154: V0 to V[x] stored from I up; I is not changed (D12). -/
def execLdMemVx (x : Reg) (s : State) : Host.Outcome State Fault Refusal :=
  .next (s.withRange (encodeWord (.ldMemVx x)) s.i.toNat (regCount x)
    (s.storeBytes s.i.toNat (s.regsUpTo x)))

/-- LD Vx, [I], R155: V0 to V[x] loaded from I up; I is not changed (D12). -/
def execLdVxMem (x : Reg) (s : State) : Host.Outcome State Fault Refusal :=
  .next (s.withRange (encodeWord (.ldVxMem x)) s.i.toNat (regCount x)
    (s.setVs 0 (s.loadBytes s.i.toNat (regCount x))))

end Sys2Proof.Machine
end

