-- ==== Sys2Proof/Machine/InputTimers.lean ====
section
/-! DEFINITION. Key input and timer instructions (spec 44_input_timers). The key snapshot is the one of this cycle. -/

namespace Sys2Proof.Machine

/-- SKP, R190: skip if the key V[x] is down. -/
def execSkp (x : Reg) (s : State) : Host.Outcome State Fault Refusal :=
  .next (s.skipIf (keyDown s.input.keys (s.getV x)))

/-- SKNP, R191: skip if the key V[x] is not down. -/
def execSknp (x : Reg) (s : State) : Host.Outcome State Fault Refusal :=
  .next (s.skipIf (!keyDown s.input.keys (s.getV x)))

/-- LD Vx, DT, R193. -/
def execLdVxDt (x : Reg) (s : State) : Host.Outcome State Fault Refusal :=
  .next (s.setV x s.dt)

/-- FX0A presents itself again: the baseline becomes this snapshot and pc goes back to its own address (R196). -/
def State.keepWaiting (s : State) : State := (s.setWait (some s.input.keys)).setPc s.instrAddr

/-- LD Vx, K, R196: the first presentation records a baseline; a later one takes the lowest-numbered key that is up in
the baseline and down now, and waits on when there is none. -/
def execLdVxK (x : Reg) (s : State) : Host.Outcome State Fault Refusal :=
  match s.wait with
  | none => .next s.keepWaiting
  | some baseline =>
    match newlyPressed s.input.keys baseline with
    | none => .next s.keepWaiting
    | some k => .next ((s.setV x (BitVec.ofNat 8 k)).setWait none)

/-- LD DT, Vx, R194. -/
def execLdDtVx (x : Reg) (s : State) : Host.Outcome State Fault Refusal :=
  .next (s.setDt (s.getV x))

/-- LD ST, Vx, R195. -/
def execLdStVx (x : Reg) (s : State) : Host.Outcome State Fault Refusal :=
  .next (s.setSt (s.getV x))

end Sys2Proof.Machine
end

