-- ==== Sys2Proof/Machine/Cycle.lean ====
section
/-! DEFINITION. The fetch-decode-execute cycle (spec 30_encoding R80 to R87). -/

namespace Sys2Proof.Machine

/-- The word at `pc`, big-endian (R81, 20_memory R55). -/
def State.fetchWord (s : State) : Word16 :=
  wordOfBytes (s.readByte s.pc.toNat) (s.readByte (s.pc.toNat + 1))

/-- The inputs of the cycle given to it (R80, R232): the snapshot and the random byte are this cycle's, `drew` starts
false (R86), and LoadRom is admitted no more (70_reset R253). -/
def State.beginCycle (s : State) (input : CycleInput) : State :=
  ((s.setInput input).setDrew false).setFresh false

/-- A fetch beyond memory (R81): nothing is read, the record has no opcode. -/
def State.fetchError (s : State) (addr : Nat) : State :=
  s.recordError { kind := .memoryOutOfBounds, pc := s.pc, opcode := none, addr := some addr, len := none }

/-- `UnknownOutcome(S1)` (R83), on the advanced state. -/
def State.unknownOutcome (s : State) (w : Word16) : State :=
  match s.params.policy with
  | .fatal => s.raise .unknownOpcode w none
  | .ignore => s

/-- `Cycle(S, keys, rnd)` (R80): no step while `err != none` (R85); the fetch bound, then the unknown word, then the
instruction's own error (60_exceptions R217). -/
def cycle (input : CycleInput) (s : State) : Host.Outcome State Fault Refusal :=
  match s.err with
  | some _ => .fault .stoppedOnError
  | none =>
    match checkRange s.pc.toNat 2 with
    | some addr => .next ((s.beginCycle input).fetchError addr)
    | none =>
      match decodeWord s.fetchWord with
      | some i => exec i (s.beginCycle input).advancePc
      | none => .next ((s.beginCycle input).advancePc.unknownOutcome s.fetchWord)

end Sys2Proof.Machine
end

