-- ==== Sys2Proof/Machine/HostOps.lean ====
section
/-! DEFINITION. The host's operations and their order (spec 60_exceptions R230 to R238, 70_reset R250 to R254). Each runs on
the state with its own turn already taken. -/

namespace Sys2Proof.Machine

/-- `v - 1`, and 0 stays 0: "the core clamps both timers at a floor of 0" (R223, R233). -/
def countDown (b : Byte) : Byte := BitVec.ofNat 8 (b.toNat - 1)

/-- `Tick()` (R233). Admitted in every state, also while waiting and after an error. -/
def State.tick (s : State) : State := (s.setDt (countDown s.dt)).setSt (countDown s.st)

/-- `Reset(params)` (R230, R251): every field of the record is set, whatever it was. The host's steps to come stay its own,
and the free values go on and do not start again (log 6). -/
def State.resetOp (s : State) (p : Params) : State :=
  (((State.resetWith p).setSchedule s.schedule).setStanding s.standing).setFreeIndex s.freeIndex

/-- `LoadRom(bytes)` (70_reset R253), on a state that admits it: RomTooLarge above 3584 bytes, with memory unchanged; else
the bytes from 0x200 up. -/
def State.loadRom (s : State) (bytes : List Byte) : State :=
  if maxRom < bytes.length then
    (s.setFresh false).recordError
      { kind := .romTooLarge, pc := s.pc, opcode := none, addr := none, len := some bytes.length }
  else (s.setFresh false).storeBytes programStart bytes

/-- What `Read()` returns (R234): the display snapshot, the timers, the awaiting-input indication, the error record, "and
for a test harness every other field". -/
structure Snapshot where
  disp : Display
  dt : Byte
  st : Byte
  awaiting : Bool
  err : Option ErrRecord
  whole : State
  deriving DecidableEq, Repr

/-- `Read()` (R234). -/
def State.read (s : State) : Snapshot :=
  { disp := s.disp, dt := s.dt, st := s.st, awaiting := s.wait.isSome, err := s.err, whole := s }

/-- One step of the host interface. Read changes nothing (R234). Stop "changes no state, and a stopped machine may be
resumed by calling Cycle"; "Stopping is the host not calling Cycle again" (R235), so it is the order of the steps after it
that holds no Cycle, or holds one later. -/
def hostStep (h : HostStep) (s : State) : Host.Outcome State Fault Refusal :=
  match h with
  | .reset p => if p.wellFormed then .next (s.resetOp p) else .refused .parametersNotAdmitted
  | .loadRom bytes => if s.fresh then .next (s.loadRom bytes) else .refused .loadNotAdmitted
  | .cycle input => cycle input s
  | .tick => .next s.tick
  | .read => .next s
  | .stop => .next s

/-- The host step whose turn it is, and the state with that turn taken (60_exceptions R238): the next one of the schedule;
with the schedule used up, the standing order from its start; with neither, whatever the host chooses. -/
def State.takeHostStep (s : State) : HostStep × State :=
  match s.schedule with
  | h :: rest => (h, s.setSchedule rest)
  | [] =>
    match s.standing with
    | h :: rest => (h, s.setSchedule rest)
    | [] => (Config.freeHostStep s.freeIndex, s.setFreeIndex (s.freeIndex + 1))

/-- The next step of the whole machine, core and host: they "form one sequence of indivisible steps, in any order the host
chooses" (60_exceptions R238). -/
def machineStep (s : State) : Host.Outcome State Fault Refusal := hostStep s.takeHostStep.1 s.takeHostStep.2

/-- Inputs of a cycle that are free values (log 1). -/
def State.freeInput (s : State) : CycleInput :=
  { keys := Config.freeKeys s.freeIndex, rnd := Config.freeRnd s.freeIndex }

/-- `s` with a cycle next: unchanged when State says one comes next, else with one put in front, whose inputs are free
values. -/
def State.withCycleNext (s : State) : State :=
  match s.schedule, s.standing with
  | .cycle _ :: _, _ => s
  | [], .cycle _ :: _ => s
  | _, _ => (s.setSchedule (.cycle s.freeInput :: s.schedule)).setFreeIndex (s.freeIndex + 1)

/-- The two bytes of a word stored where the next cycle fetches, and that cycle made the next step (log 15). -/
def State.placeWord (s : State) (w : Word16) : State :=
  (s.storeBytes s.pc.toNat [highByte w, lowByte w]).withCycleNext.setErr none

end Sys2Proof.Machine
end

