-- ==== Sys2Proof/Machine/Step.lean ====
section
/-! DEFINITION. One step of the machine, and the placing of one instruction where the next step fetches it. -/

namespace Sys2Proof.Machine

/-- One indivisible step of core or host (spec 00_scope R5, 60_exceptions R238). -/
def step (s : State) : Host.Outcome State Fault Refusal := machineStep s

/-- `s` with the opcode-table word `w` (bits above `nbits` zero) as the instruction the next step runs. -/
def State.withFetchWord (s : State) (nbits w : Nat) : State := s.placeWord (BitVec.ofNat 16 (w % 2 ^ nbits))

end Sys2Proof.Machine
end

