-- ==== Sys2Proof/Safety.lean ====
section
/-! DEFINITION. The terms claims are stated in: the state before an error is undone, the next step being a cycle, the
invariant of reachable states (spec 10_state R42), the cells a sprite covers (43_display R171, R172), the tables of who
writes what (10_state R23, R26). -/

namespace Sys2Proof.Machine

/-- The state an instruction error leaves (30_encoding R84, 60_exceptions R216), seen from the state the executor was
handed: pc back at the instruction, the record written, nothing else changed. -/
def State.erred (s : State) (kind : ErrKind) (w : Word16) (addr : Option Nat) : State :=
  { s with
    pc := s.pc - 2
    err := some { kind := kind, pc := s.pc - 2, opcode := some w, addr := addr, len := none } }

/-- The host step `h` comes next, and `s0` is `s` with its turn taken (60_exceptions R238): `s0` differs from `s` in the
model's own fields `schedule` and `freeIndex` alone. -/
def State.HostNext (s : State) (h : HostStep) (s0 : State) : Prop := s.takeHostStep = (h, s0)

/-- The next machine step is a cycle with these inputs, run on `s0`. -/
def State.CycleNext (s : State) (input : CycleInput) (s0 : State) : Prop := s.HostNext (.cycle input) s0

/-- The state after `n` turns of the host, with nothing else done. -/
def State.afterTurns : Nat → State → State
  | 0, s => s
  | n + 1, s => State.afterTurns n s.takeHostStep.2

/-- `s0` with the inputs of a cycle latched (30_encoding R80): what every cycle does to the model's own fields. -/
def State.latched (s0 : State) (input : CycleInput) : State :=
  { s0 with input := input, drew := false, fresh := false }

/-- The state the cycle hands to the executor (R80's S1): inputs latched, pc advanced. -/
def State.handed (s0 : State) (input : CycleInput) : State :=
  { s0.latched input with pc := s0.pc + 2 }

/-- `w` has these fields (30_encoding R71). -/
abbrev HasFields (w : Word16) (op : Nibble) (x y : Reg) (n : Nibble) (nn : Byte) (nnn : Word12) : Prop :=
  opField w = op ∧ xField w = x ∧ yField w = y ∧ nField w = n ∧ nnField w = nn ∧ nnnField w = nnn

/-- The instruction is FX0A. -/
def isKeyWait : Instr → Bool
  | .ldVxK _ => true
  | _ => false

/-- The shape of an error record (60_exceptions R210, R216), by kind. -/
def ErrRecord.wf (e : ErrRecord) : Prop :=
  match e.kind with
  | .romTooLarge => e.opcode = none ∧ e.addr = none ∧ ∃ n, e.len = some n ∧ maxRom < n
  | .memoryOutOfBounds => e.len = none ∧ ∃ a, e.addr = some a ∧ 0x1000 ≤ a ∧ a ≤ 0x10FE
  | .stackOverflow => e.opcode.isSome ∧ e.addr = none ∧ e.len = none
  | .stackUnderflow => e.opcode.isSome ∧ e.addr = none ∧ e.len = none
  | .unknownOpcode => e.opcode.isSome ∧ e.addr = none ∧ e.len = none

/-- The invariant of 10_state R42, with the parameters' constraint (00_scope R6), the error record's shape and place (R216,
R219; the spec's decisions D5 and D4), and two clauses of the model's own: the memory's canonical form (log 12) and what
`fresh` goes with (log 10). That I is at most 0xFFF and that a display cell
is 0 or 1 is carried by their types. -/
structure State.Inv (s : State) : Prop where
  params_wf : s.params.wellFormed = true
  pc_le : s.pc.toNat ≤ 0x10FE
  stack_length : s.stack.length ≤ s.params.stackDepth
  stack_entries : ∀ a ∈ s.stack, a.toNat ≤ 0x1000
  mem_wf : Memory.wf s.params s.mem
  waiting : ∀ b, s.wait = some b →
    s.err = none ∧ s.pc.toNat + 1 ≤ 0xFFF ∧ ∃ i, decodeWord s.fetchWord = some i ∧ isKeyWait i = true
  error_record : ∀ e, s.err = some e → ErrRecord.wf e ∧ e.pc = s.pc
  fresh_start : s.fresh = true → s.err = none ∧ s.wait = none

/-- Some 1-bit of the N-row sprite at I, drawn from (V[x] mod 64, V[y] mod 32), lands on the cell (cx, cy) (43_display
R171, R172). -/
def State.Covers (s : State) (x y : Reg) (n : Nat) (cx : Fin 64) (cy : Fin 32) : Prop :=
  ∃ r c : Nat, r < n ∧ c < 8 ∧
    ((s.getV x).toNat % 64 + c) % 64 = cx.val ∧ ((s.getV y).toNat % 32 + r) % 32 = cy.val ∧
    (s.readByte (s.i.toNat + r)).getLsbD (7 - c) = true

/-- The V registers an instruction may write (10_state R23). -/
def mayWrite : Instr → Reg → Prop
  | .ldImm x _, r => r = x
  | .addImm x _, r => r = x
  | .rnd x _, r => r = x
  | .ldVxDt x, r => r = x
  | .ldReg x _, r => r = x
  | .orReg x _, r => r = x
  | .andReg x _, r => r = x
  | .xorReg x _, r => r = x
  | .addReg x _, r => r = x ∨ r = Reg.flag
  | .sub x _, r => r = x ∨ r = Reg.flag
  | .shr x _, r => r = x ∨ r = Reg.flag
  | .subn x _, r => r = x ∨ r = Reg.flag
  | .shl x _, r => r = x ∨ r = Reg.flag
  | .drw _ _ _, r => r = Reg.flag
  | .ldVxK x, r => r = x
  | .ldVxMem x, r => r ≤ x
  | .cls, _ | .ret, _ | .jp _, _ | .call _, _ | .jpV0 _, _ => False
  | .seImm _ _, _ | .sneImm _ _, _ | .seReg _ _, _ | .sneReg _ _, _ | .skp _, _ | .sknp _, _ => False
  | .ldI _, _ | .addIVx _, _ | .ldFVx _, _ | .ldBVx _, _ | .ldMemVx _, _ => False
  | .ldDtVx _, _ | .ldStVx _, _ => False

/-- Where pc may stand after an instruction that raised no error, by the classes of 10_state R26; `s` is the state the
executor was handed, so that `s.pc` is `a + 2`. -/
def pcAfter (i : Instr) (s : State) (pc : Word16) : Prop :=
  match i with
  | .seImm x nn => pc = if s.getV x = nn then s.pc + 2 else s.pc
  | .sneImm x nn => pc = if s.getV x = nn then s.pc else s.pc + 2
  | .seReg x y => pc = if s.getV x = s.getV y then s.pc + 2 else s.pc
  | .sneReg x y => pc = if s.getV x = s.getV y then s.pc else s.pc + 2
  | .skp x => pc = if keyDown s.input.keys (s.getV x) then s.pc + 2 else s.pc
  | .sknp x => pc = if keyDown s.input.keys (s.getV x) then s.pc else s.pc + 2
  | .jp nnn => pc.toNat = nnn.toNat
  | .call nnn => pc.toNat = nnn.toNat
  | .jpV0 nnn => pc.toNat = nnn.toNat + (s.getV 0).toNat
  | .ret => ∃ rest, s.stack = rest ++ [pc]
  | .ldVxK _ =>
    (pc = s.pc ∧ ∃ b k, s.wait = some b ∧ k < 16 ∧ s.input.keys.getLsbD k = true ∧ b.getLsbD k = false) ∨
    (pc = s.pc - 2 ∧ ∀ b, s.wait = some b → ∀ k < 16, s.input.keys.getLsbD k = true → b.getLsbD k = true)
  | .cls | .ldImm _ _ | .addImm _ _ | .ldReg _ _ | .orReg _ _ | .andReg _ _ | .xorReg _ _ | .addReg _ _ | .sub _ _
  | .shr _ _ | .subn _ _ | .shl _ _ | .rnd _ _ | .ldI _ | .addIVx _ | .ldFVx _ | .ldBVx _ | .ldMemVx _ | .ldVxMem _
  | .drw _ _ _ | .ldVxDt _ | .ldDtVx _ | .ldStVx _ => pc = s.pc

end Sys2Proof.Machine
end

