-- ==== Sys2Proof/Certificates/Slice0/Obligations.lean ====
section
/-! DEFINITION. What is claimed of the machine, from the numbered rules of spec/. An instruction's claim is about `exec` on
the state the cycle hands to the executor (pc is already `a + 2`, 10_state R25); `StepRunsDecodedInstruction` ties it to
a step. A claim `t = { s with … }` is also its frame: every field it does not name is unchanged, all of memory with it. -/

open Sys2Proof Sys2Proof.Machine

/-! ### Encoding and decoding -/

/-- 30_encoding R88: the fields and the dispatch of the eight sample words. -/
def Obligations.SampleWordsDecodeAsTabulated : Prop :=
  HasFields 0xD125 0xD 0x1 0x2 0x5 0x25 0x125 ∧ HasFields 0x8014 0x8 0x0 0x1 0x4 0x14 0x014 ∧
  HasFields 0x00EE 0x0 0x0 0xE 0xE 0xEE 0x0EE ∧ HasFields 0x01E0 0x0 0x1 0xE 0x0 0xE0 0x1E0 ∧
  HasFields 0x5AB1 0x5 0xA 0xB 0x1 0xB1 0xAB1 ∧ HasFields 0xF155 0xF 0x1 0x5 0x5 0x55 0x155 ∧
  HasFields 0x800F 0x8 0x0 0x0 0xF 0x0F 0x00F ∧ HasFields 0xE29E 0xE 0x2 0x9 0xE 0x9E 0x29E ∧
  decodeWord 0xD125 = some (.drw 1 2 5) ∧ decodeWord 0x8014 = some (.addReg 0 1) ∧ decodeWord 0x00EE = some .ret ∧
  decodeWord 0x01E0 = none ∧ decodeWord 0x5AB1 = none ∧ decodeWord 0xF155 = some (.ldMemVx 1) ∧
  decodeWord 0x800F = none ∧ decodeWord 0xE29E = some (.skp 2)

/-- Decoding the two bytes of any instruction gives that instruction, with every operand at every value, and leaves the
bytes after it (30_encoding R70, R71, R73, R82; 20_memory R55). Every instruction is well-formed (10_state R21). -/
def Obligations.DecodeAfterEncodeIsIdentity : Prop :=
  ∀ (i : Instr) (rest : List Byte), i.wellFormed = true ∧ decode (encode i ++ rest) = .instr i rest

/-- The other direction: a word that names an instruction is the encoding of that instruction, so no two words share one
and no bit of a known word is dropped (30_encoding R72, R73, R75, R78). That holds because 00E0, 00EE, 5XY0 and 9XY0 are the
only words of their kind, which is the spec's own decision D8. -/
def Obligations.EncodeAfterDecodeIsIdentity : Prop :=
  ∀ (hi lo : Byte) (rest rest' : List Byte) (i : Instr),
    decode (hi :: lo :: rest) = .instr i rest' → encode i = [hi, lo] ∧ rest' = rest

/-- 30_encoding R82: the dispatch is the first row of opcode_table.json whose `(w & mask) = match`, and at most one row
matches. That words 01E0, 5XY1, 9XY1 and their like match no row is the spec's own decision D8. -/
def Obligations.DispatchAgreesWithOpcodeTable : Prop :=
  ∀ w : Word16,
    (decodeWord w).map Instr.mnemonic =
      (opcodeTable.find? fun r => w &&& r.mask == r.pat).map (fun r => r.mnemonic) ∧
    (opcodeTable.filter fun r => w &&& r.mask == r.pat).length ≤ 1

/-- 30_encoding R76: the unknown words are those of the six families of its table, and no others. The strict reading of
families 0x0, 0x5 and 0x9 is the spec's own decision D8. -/
def Obligations.UnknownWordsAreTheSixFamilies : Prop :=
  ∀ w : Word16,
    decodeWord w = none ↔
      (w.toNat < 0x1000 ∧ w ≠ 0x00E0 ∧ w ≠ 0x00EE) ∨
      (w.toNat / 0x1000 = 0x5 ∧ w.toNat % 16 ≠ 0) ∨
      (w.toNat / 0x1000 = 0x8 ∧ w.toNat % 16 ∈ [0x8, 0x9, 0xA, 0xB, 0xC, 0xD, 0xF]) ∨
      (w.toNat / 0x1000 = 0x9 ∧ w.toNat % 16 ≠ 0) ∨
      (w.toNat / 0x1000 = 0xE ∧ w.toNat % 256 ∉ [0x9E, 0xA1]) ∨
      (w.toNat / 0x1000 = 0xF ∧ w.toNat % 256 ∉ [0x07, 0x0A, 0x15, 0x18, 0x1E, 0x29, 0x33, 0x55, 0x65])

/-! ### The cycle -/

/-- 30_encoding R80, 20_memory R55, R56, 10_state R25: when the next step is a cycle, no error is recorded and the two bytes
at pc (odd or even) are in memory and decode to `i`, the step is `exec i` with the cycle's inputs latched and pc moved
past the word. (That an odd pc is legal is the spec's decision D3; that a cycle ends the admission of LoadRom is its
decision D27, held in `fresh` by the model's choice, log 10; that `drew` is held in State and starts false is the model's
choice, log 9; where the cycle and its inputs come from is the model's choice, logs 1 and 2.) -/
def Obligations.StepRunsDecodedInstruction : Prop :=
  ∀ (s s0 : State) (input : CycleInput) (i : Instr),
    s.CycleNext input s0 → s.err = none → s.pc.toNat + 1 ≤ 0xFFF →
    decode [s.readByte s.pc.toNat, s.readByte (s.pc.toNat + 1)] = .instr i [] →
    step s = exec i { s0 with input := input, drew := false, fresh := false, pc := s.pc + 2 }

/-- 30_encoding R81: with pc + 1 above 0xFFF the cycle records MemoryOutOfBounds at the lowest of the two addresses that is
out of range, with no opcode, and nothing else of the record changes. (What the error leaves, and the record's layout, are
the spec's decisions D4 and D5. The model's own fields input, drew and fresh, which every cycle writes,
are logs 1, 9 and 10.) -/
def Obligations.FetchBeyondMemoryRecordsError : Prop :=
  ∀ (s s0 : State) (input : CycleInput),
    s.CycleNext input s0 → s.err = none → s.pc.toNat + 1 > 0xFFF →
    step s = .next { s0 with
      input := input, drew := false, fresh := false
      err := some { kind := .memoryOutOfBounds, pc := s.pc, opcode := none,
                    addr := some (if s.pc.toNat > 0xFFF then s.pc.toNat else 0x1000), len := none } }

/-- 30_encoding R83, R84, 60_exceptions R214: a word that names no instruction. Under Fatal the cycle records UnknownOpcode
and pc stays at the word (what an error leaves and records: its decisions D4 and D5); under Ignore it is a no-op of two
bytes (its decision D7). The model's own fields input, drew and fresh, which every cycle writes, are
logs 1, 9 and 10. -/
def Obligations.UnknownWordFollowsPolicy : Prop :=
  ∀ (s s0 : State) (input : CycleInput) (w : Word16),
    s.CycleNext input s0 → s.err = none → s.pc.toNat + 1 ≤ 0xFFF →
    w.toNat = 256 * (s.readByte s.pc.toNat).toNat + (s.readByte (s.pc.toNat + 1)).toNat → decodeWord w = none →
    (s.params.policy = .fatal → step s = .next { s0 with
      input := input, drew := false, fresh := false
      err := some { kind := .unknownOpcode, pc := s.pc, opcode := some w, addr := none, len := none } }) ∧
    (s.params.policy = .ignore → step s = .next { s0 with
      input := input, drew := false, fresh := false, pc := s.pc + 2 })

/-- 30_encoding R85, 60_exceptions R220: once an error is recorded a cycle is no step, and no step but the host's Reset
leaves the machine without one. (Stopping with a fault is the model's form of "the core has no step", log 13; that only
Reset is the way out is the spec's decision D6.) -/
def Obligations.RecordedErrorStopsTheCore : Prop :=
  ∀ s : State, s.err ≠ none →
    (∀ input s0, s.CycleNext input s0 → step s = .fault .stoppedOnError) ∧
    (∀ t, step s = .next t → t.err ≠ none ∨ ∃ p s0, s.HostNext (.reset p) s0)

/-- 30_encoding R84, 60_exceptions R219: an error is precise. A cycle that ends with an error recorded leaves every field of
the record as before the cycle, pc included, and sets only `err`, which names that pc; the opcode recorded is the word at
pc when there is one. (All-or-nothing for every error kind is the spec's own decision D4; the record's
layout is its decision D5, R216. The model's own fields input, drew and fresh, which every
cycle writes, are logs 1, 9 and 10.) -/
def Obligations.ErrorLeavesStateAsBeforeCycle : Prop :=
  ∀ (s s0 t : State) (input : CycleInput) (e : ErrRecord),
    s.CycleNext input s0 → s.err = none → step s = .next t → t.err = some e →
    t = { s0 with input := input, drew := false, fresh := false, err := some e } ∧ e.pc = s.pc ∧
    (∀ w, e.opcode = some w → s.pc.toNat + 1 ≤ 0xFFF ∧
      w.toNat = 256 * (s.readByte s.pc.toNat).toNat + (s.readByte (s.pc.toNat + 1)).toNat)

/-- 60_exceptions R210, R222, R228: no instruction stops the machine by itself. Every instruction is available in every
state and every execution of it ends in a next state, with or without an error recorded. (What an error leaves and
records is the spec's decisions D4 and D5; one mode with no privilege is its decision D29, no debug facility its D30.) -/
def Obligations.EveryInstructionAnswersNextState : Prop :=
  ∀ (i : Instr) (s : State), ∃ t, exec i s = .next t ∧
    (t.err = s.err ∨ ∃ kind addr, t = s.erred kind (encodeWord i) addr ∧
      ((i = .ret ∧ kind = .stackUnderflow ∧ addr = none) ∨
       (∃ nnn, i = .call nnn ∧ kind = .stackOverflow ∧ addr = none) ∨
       (kind = .memoryOutOfBounds ∧ addr = some 0x1000 ∧
         ((∃ x y n, i = .drw x y n) ∨ ∃ x, i = .ldBVx x ∨ i = .ldMemVx x ∨ i = .ldVxMem x))))

/-! ### Whole-machine invariants -/

/-- 10_state R42 (with 00_scope R6 and 60_exceptions R216, R219): every step of core or host keeps the invariant. The clauses
`mem_wf` (the listing's canonical form, log 12) and `fresh_start` (what `fresh` goes with, log 10) are about the model's own
choices and formalise no rule; that parameters which R6 excludes are never taken is the model's refusal of them (log 11).
The spec's own decisions behind the others: D21 and D22 for the parameters' bounds, D2 for pc, D33 for the stack's entries, D18 for the wait, D5 for the error
record's shape and D4 for its place at pc. -/
def Obligations.StepKeepsMachineInvariant : Prop :=
  ∀ s t : State, s.Inv → step s = .next t → t.Inv

/-- The invariant holds after Reset with any admitted parameters, the default ones among them (10_state R41, R42; the zero
reset values are the spec's decision D19). Its clauses `mem_wf` (log 12) and `fresh_start` (log 10) are about the model's own
choices, and `fresh` starts true by log 6; behind the others stand D2, D4, D5, D18, D21, D22 and D33, as in the statement
above. -/
def Obligations.ResetEstablishesMachineInvariant : Prop :=
  State.reset.Inv ∧ ∀ p : Params, p.wellFormed = true → (State.resetWith p).Inv

/-- 00_scope R6, 70_reset R251: the parameters are fixed for the life of an instance; only Reset sets them. -/
def Obligations.OnlyResetChangesParameters : Prop :=
  ∀ s t : State, step s = .next t →
    t.params = s.params ∨ ∃ p s0, s.HostNext (.reset p) s0 ∧ t.params = p

/-- 43_display R174: "Only CLS and DRW write `disp`. No other instruction and no host operation except reset writes it",
and the host reads it through the snapshot. -/
def Obligations.DisplayWrittenOnlyByClsDrwReset : Prop :=
  (∀ s t : State, step s = .next t → t.disp ≠ s.disp →
    (∃ p s0, s.HostNext (.reset p) s0) ∨
    ∃ input s0, s.CycleNext input s0 ∧
      (decodeWord s.fetchWord = some .cls ∨ ∃ x y n, decodeWord s.fetchWord = some (.drw x y n))) ∧
  ∀ s : State, s.read.disp = s.disp

/-- 20_memory R57, R58, 42_index_memory R153, R154: of all instructions only FX33 and FX55 write memory. -/
def Obligations.MemoryWrittenOnlyByFx33AndFx55 : Prop :=
  ∀ (i : Instr) (s t : State), exec i s = .next t → t.mem ≠ s.mem → ∃ x, i = .ldBVx x ∨ i = .ldMemVx x

/-- 10_state R28: I "is written by ANNN, FX1E and FX29 ... and by nothing else". -/
def Obligations.IndexWrittenOnlyByAnnnFx1eFx29 : Prop :=
  ∀ (i : Instr) (s t : State), exec i s = .next t → t.i ≠ s.i →
    (∃ nnn, i = .ldI nnn) ∨ ∃ x, i = .addIVx x ∨ i = .ldFVx x

/-- 10_state R29: "Only 2NNN pushes ... and only 00EE pops": any change of the stack is one entry more by CALL or one entry
less by RET. (The stack's form, a sequence with its top at the end, is the spec's decision D33.) -/
def Obligations.StackChangesOnlyByCallAndRet : Prop :=
  ∀ (i : Instr) (s t : State), exec i s = .next t → t.stack ≠ s.stack →
    (∃ nnn, i = .call nnn ∧ t.stack = s.stack ++ [s.pc]) ∨ (i = .ret ∧ s.stack = t.stack ++ [t.pc])

/-- 10_state R30: the core "writes `DT` only by FX15 and `ST` only by FX18". -/
def Obligations.TimersWrittenOnlyByFx15AndFx18 : Prop :=
  ∀ (i : Instr) (s t : State), exec i s = .next t →
    (t.dt ≠ s.dt → ∃ x, i = .ldDtVx x) ∧ (t.st ≠ s.st → ∃ x, i = .ldStVx x)

/-- 10_state R31: "Only FX0A reads or writes `wait`": no other instruction changes it, and what another instruction does is
the same whatever `wait` holds. (The baseline that `wait` holds is the spec's decision D18.) -/
def Obligations.WaitReadAndWrittenOnlyByFx0a : Prop :=
  ∀ (i : Instr) (s t : State) (b : Option Word16), (∀ x, i ≠ .ldVxK x) → exec i s = .next t →
    t.wait = s.wait ∧ exec i { s with wait := b } = .next { t with wait := b }

/-- 10_state R23: the writers of the V registers; every other register keeps its value. -/
def Obligations.RegistersWrittenOnlyByTheirWriters : Prop :=
  ∀ (i : Instr) (s t : State) (r : Reg), exec i s = .next t → ¬mayWrite i r → t.getV r = s.getV r

/-- 10_state R26: pc after an instruction by class; on an error it is back at the instruction (the spec's
decision D4). That BNNN's target is not wrapped is the spec's decision D2, that V[X] above 15 names no key its decision
D17, and when FX0A resolves its decision D18. -/
def Obligations.PcMovesByInstructionClass : Prop :=
  ∀ (i : Instr) (s t : State), s.err = none → exec i s = .next t →
    (t.err ≠ none ∧ t.pc = s.pc - 2) ∨ (t.err = none ∧ pcAfter i s t.pc)

/-- 60_exceptions R232: "instructions that do not need it ignore it": the key snapshot matters to EX9E, EXA1 and FX0A alone,
the random byte to CXNN alone. (That both are inputs of every cycle is R232's; that the byte is a free one is the spec's
decision D32.) -/
def Obligations.CycleInputsMatterOnlyToTheirReaders : Prop :=
  ∀ (i : Instr) (s t : State) (keys : Word16) (rnd : Byte), exec i s = .next t →
    ((∀ x, i ≠ .skp x ∧ i ≠ .sknp x ∧ i ≠ .ldVxK x) →
      exec i { s with input := { s.input with keys := keys } } = .next { t with input := { t.input with keys := keys } }) ∧
    ((∀ x nn, i ≠ .rnd x nn) →
      exec i { s with input := { s.input with rnd := rnd } } = .next { t with input := { t.input with rnd := rnd } })

/-! ### Control flow (40_control_flow) -/

/-- R100: RET takes the last return address into pc and off the stack; with an empty stack it raises StackUnderflow.
(What an error leaves and records is the spec's decisions D4 and D5.) -/
def Obligations.RetPopsReturnAddress : Prop :=
  encodeWord .ret = 0x00EE ∧
  ∀ s : State,
    (∀ rest a, s.stack = rest ++ [a] → exec .ret s = .next { s with pc := a, stack := rest }) ∧
    (s.stack = [] → exec .ret s = .next (s.erred .stackUnderflow 0x00EE none))

/-- R101: JP sets pc to NNN, zero-extended, and changes nothing else. -/
def Obligations.JumpSetsPcToTarget : Prop :=
  ∀ (nnn : Word12) (s : State),
    (encodeWord (.jp nnn)).toNat = 0x1000 + nnn.toNat ∧
    ∃ t, exec (.jp nnn) s = .next t ∧ t = { s with pc := t.pc } ∧ t.pc.toNat = nnn.toNat

/-- R102: CALL pushes the advanced pc and jumps; with STACK_DEPTH entries on the stack it raises StackOverflow.
(What an error leaves and records is the spec's decisions D4 and D5.) -/
def Obligations.CallPushesReturnAddress : Prop :=
  ∀ (nnn : Word12) (s : State),
    (encodeWord (.call nnn)).toNat = 0x2000 + nnn.toNat ∧
    (s.stack.length < s.params.stackDepth →
      ∃ t, exec (.call nnn) s = .next t ∧ t = { s with pc := t.pc, stack := s.stack ++ [s.pc] } ∧
        t.pc.toNat = nnn.toNat) ∧
    (s.stack.length = s.params.stackDepth →
      exec (.call nnn) s = .next (s.erred .stackOverflow (encodeWord (.call nnn)) none))

/-- R107: JP V0 jumps to the natural sum of NNN and V0. That it is not wrapped to 12 bits is the spec's decision D2. -/
def Obligations.JumpV0AddsWithoutWrap : Prop :=
  ∀ (nnn : Word12) (s : State),
    ∃ t, exec (.jpV0 nnn) s = .next t ∧ t = { s with pc := t.pc } ∧ t.pc.toNat = nnn.toNat + (s.getV 0).toNat

/-- R103, R104: SE and SNE on an immediate add 2 to pc exactly when V[X] equals, differs from, NN. -/
def Obligations.ImmediateSkipsCompareRegister : Prop :=
  ∀ (x : Reg) (nn : Byte) (s : State),
    (encodeWord (.seImm x nn)).toNat = 0x3000 + 0x100 * x.val + nn.toNat ∧
    (encodeWord (.sneImm x nn)).toNat = 0x4000 + 0x100 * x.val + nn.toNat ∧
    exec (.seImm x nn) s = .next (if s.getV x = nn then { s with pc := s.pc + 2 } else s) ∧
    exec (.sneImm x nn) s = .next (if s.getV x = nn then s else { s with pc := s.pc + 2 })

/-- R105, R106: SE and SNE on two registers; X = Y always, never, skips. (That N must be 0 in the word is the spec's
decision D8.) -/
def Obligations.RegisterSkipsCompareRegisters : Prop :=
  ∀ (x y : Reg) (s : State),
    exec (.seReg x y) s = .next (if s.getV x = s.getV y then { s with pc := s.pc + 2 } else s) ∧
    exec (.sneReg x y) s = .next (if s.getV x = s.getV y then s else { s with pc := s.pc + 2 }) ∧
    exec (.seReg x x) s = .next { s with pc := s.pc + 2 } ∧ exec (.sneReg x x) s = .next s

/-- R109: a CALL and then, at its target, a RET: pc is the address after the CALL, the stack as before. -/
def Obligations.CallThenRetComesBack : Prop :=
  ∀ (nnn : Word12) (s : State), s.stack.length < s.params.stackDepth →
    ∃ t u, exec (.call nnn) s = .next t ∧ exec .ret { t with pc := t.pc + 2 } = .next u ∧ u = s

/-! ### Registers and arithmetic (41_alu) -/

/-- R120, R122: LD writes the immediate, the other register's value, into V[X] and nothing else. -/
def Obligations.LoadsWriteOneRegister : Prop :=
  ∀ (x y : Reg) (nn : Byte) (s : State),
    (encodeWord (.ldImm x nn)).toNat = 0x6000 + 0x100 * x.val + nn.toNat ∧
    (encodeWord (.ldReg x y)).toNat = 0x8000 + 0x100 * x.val + 0x10 * y.val ∧
    (∃ t, exec (.ldImm x nn) s = .next t ∧ t = { s with v := t.v } ∧ t.getV x = nn ∧
      ∀ r, r ≠ x → t.getV r = s.getV r) ∧
    (∃ t, exec (.ldReg x y) s = .next t ∧ t = { s with v := t.v } ∧ t.getV x = s.getV y ∧
      ∀ r, r ≠ x → t.getV r = s.getV r)

/-- R121: ADD Vx, nn adds mod 256 and leaves VF alone unless X = F. -/
def Obligations.AddImmediateWrapsWithoutFlag : Prop :=
  ∀ (x : Reg) (nn : Byte) (s : State),
    (encodeWord (.addImm x nn)).toNat = 0x7000 + 0x100 * x.val + nn.toNat ∧
    ∃ t, exec (.addImm x nn) s = .next t ∧ t = { s with v := t.v } ∧
      (t.getV x).toNat = ((s.getV x).toNat + nn.toNat) % 256 ∧ ∀ r, r ≠ x → t.getV r = s.getV r

/-- R123, R124, R125: OR, AND, XOR bit by bit. That VF is not written (unless X = F) is the spec's decision D9. -/
def Obligations.LogicInstructionsWorkBitwise : Prop :=
  ∀ (x y : Reg) (s : State),
    (∃ t, exec (.orReg x y) s = .next t ∧ t = { s with v := t.v } ∧ (∀ r, r ≠ x → t.getV r = s.getV r) ∧
      ∀ k, (t.getV x).getLsbD k = ((s.getV x).getLsbD k || (s.getV y).getLsbD k)) ∧
    (∃ t, exec (.andReg x y) s = .next t ∧ t = { s with v := t.v } ∧ (∀ r, r ≠ x → t.getV r = s.getV r) ∧
      ∀ k, (t.getV x).getLsbD k = ((s.getV x).getLsbD k && (s.getV y).getLsbD k)) ∧
    (∃ t, exec (.xorReg x y) s = .next t ∧ t = { s with v := t.v } ∧ (∀ r, r ≠ x → t.getV r = s.getV r) ∧
      ∀ k, (t.getV x).getLsbD k = ((s.getV x).getLsbD k ^^ (s.getV y).getLsbD k))

/-- R126: ADD Vx, Vy: VF is the carry for every X and Y (also X = F, Y = F, X = Y); V[X] is the sum mod 256 unless X = F. -/
def Obligations.AddRegistersSetsCarry : Prop :=
  ∀ (x y : Reg) (s : State),
    (encodeWord (.addReg x y)).toNat = 0x8004 + 0x100 * x.val + 0x10 * y.val ∧
    ∃ t, exec (.addReg x y) s = .next t ∧ t = { s with v := t.v } ∧
      t.getV Reg.flag = (if (s.getV x).toNat + (s.getV y).toNat > 255 then 1 else 0) ∧
      (x ≠ Reg.flag → (t.getV x).toNat = ((s.getV x).toNat + (s.getV y).toNat) % 256) ∧
      ∀ r, r ≠ x → r ≠ Reg.flag → t.getV r = s.getV r

/-- R127, R129: SUB and SUBN: VF = 1 exactly when there is no borrow; V[X] is the difference mod 256 unless X = F. That
the flag is what remains when X = F is the spec's decision D10. -/
def Obligations.SubtractionsSetNoBorrow : Prop :=
  ∀ (x y : Reg) (s : State),
    (∃ t, exec (.sub x y) s = .next t ∧ t = { s with v := t.v } ∧
      t.getV Reg.flag = (if (s.getV x).toNat ≥ (s.getV y).toNat then 1 else 0) ∧
      (x ≠ Reg.flag → t.getV x = s.getV x - s.getV y) ∧
      ∀ r, r ≠ x → r ≠ Reg.flag → t.getV r = s.getV r) ∧
    (∃ t, exec (.subn x y) s = .next t ∧ t = { s with v := t.v } ∧
      t.getV Reg.flag = (if (s.getV y).toNat ≥ (s.getV x).toNat then 1 else 0) ∧
      (x ≠ Reg.flag → t.getV x = s.getV y - s.getV x) ∧
      ∀ r, r ≠ x → r ≠ Reg.flag → t.getV r = s.getV r)

/-- R128, R130: SHR and SHL move V[X] by one bit, the vacated bit is 0, VF is the bit shifted out, and V[Y] is not read
(the same for every Y). That the flag is what remains when X = F is the spec's decision D10. -/
def Obligations.ShiftsMoveOneBitIgnoringY : Prop :=
  ∀ (x y y' : Reg) (s : State),
    (∃ t, exec (.shr x y) s = .next t ∧ exec (.shr x y') s = .next t ∧ t = { s with v := t.v } ∧
      (t.getV Reg.flag).toNat = (s.getV x).toNat % 2 ∧ (x ≠ Reg.flag → t.getV x = s.getV x >>> 1) ∧
      ∀ r, r ≠ x → r ≠ Reg.flag → t.getV r = s.getV r) ∧
    (∃ t, exec (.shl x y) s = .next t ∧ exec (.shl x y') s = .next t ∧ t = { s with v := t.v } ∧
      (t.getV Reg.flag).toNat = (s.getV x).toNat / 128 ∧ (x ≠ Reg.flag → t.getV x = s.getV x <<< 1) ∧
      ∀ r, r ≠ x → r ≠ Reg.flag → t.getV r = s.getV r)

/-- R131: RND writes the cycle's random byte ANDed with NN into V[X] and nothing else, for every random byte. (That the
byte is a free input is the spec's decision D32.) -/
def Obligations.RandomByteIsMasked : Prop :=
  ∀ (x : Reg) (nn : Byte) (s : State),
    ∃ t, exec (.rnd x nn) s = .next t ∧ t = { s with v := t.v } ∧
      (∀ k, (t.getV x).getLsbD k = (s.input.rnd.getLsbD k && nn.getLsbD k)) ∧ ∀ r, r ≠ x → t.getV r = s.getV r

/-! ### Index and memory (42_index_memory) -/

/-- R150: LD I sets I to NNN and changes nothing else. -/
def Obligations.LoadIndexSetsI : Prop :=
  ∀ (nnn : Word12) (s : State),
    (encodeWord (.ldI nnn)).toNat = 0xA000 + nnn.toNat ∧ exec (.ldI nnn) s = .next { s with i := nnn }

/-- R151: ADD I, Vx wraps mod 4096 and writes neither VF nor anything else. (The convention is the spec's decision D11.) -/
def Obligations.AddToIndexWrapsWithoutFlag : Prop :=
  ∀ (x : Reg) (s : State),
    ∃ t, exec (.addIVx x) s = .next t ∧ t = { s with i := t.i } ∧
      t.i.toNat = (s.i.toNat + (s.getV x).toNat) % 4096

/-- R152: LD F gives FONT_BASE + 5 * V[X] exactly, for every V[X], with any admitted parameters. -/
def Obligations.GlyphAddressIsExact : Prop :=
  ∀ (x : Reg) (s : State),
    (encodeWord (.ldFVx x)).toNat = 0xF029 + 0x100 * x.val ∧
    (s.params.wellFormed = true →
      ∃ t, exec (.ldFVx x) s = .next t ∧ t = { s with i := t.i } ∧
        t.i.toNat = s.params.fontBase + 5 * (s.getV x).toNat)

/-- R153: with I, I+1, I+2 in memory, LD B stores the hundreds, tens and ones digit there; every other byte and every other
field is unchanged. (The digit order is the spec's decision D13; that I, which the source does not name, stays is its
decision D9.) -/
def Obligations.BcdStoresThreeDigits : Prop :=
  ∀ (x : Reg) (s : State), s.i.toNat + 2 ≤ 0xFFF →
    ∃ t, exec (.ldBVx x) s = .next t ∧ t = { s with mem := t.mem } ∧
      (t.readByte s.i.toNat).toNat = (s.getV x).toNat / 100 ∧
      (t.readByte (s.i.toNat + 1)).toNat = (s.getV x).toNat / 10 % 10 ∧
      (t.readByte (s.i.toNat + 2)).toNat = (s.getV x).toNat % 10 ∧
      ∀ a, a < s.i.toNat ∨ s.i.toNat + 2 < a → t.readByte a = s.readByte a

/-- R154: with I .. I+X in memory, FX55 stores V0 .. V[X] there; every other byte and every other field, I with them, is
unchanged. (That I does not advance is the spec's decision D12.) -/
def Obligations.RegisterDumpStoresRange : Prop :=
  ∀ (x : Reg) (s : State), s.i.toNat + x.val ≤ 0xFFF →
    ∃ t, exec (.ldMemVx x) s = .next t ∧ t = { s with mem := t.mem } ∧
      (∀ r : Reg, r ≤ x → t.readByte (s.i.toNat + r.val) = s.getV r) ∧
      ∀ a, a < s.i.toNat ∨ s.i.toNat + x.val < a → t.readByte a = s.readByte a

/-- R155: with I .. I+X in memory, FX65 loads V0 .. V[X] from there; every other register, all of memory and every other
field are unchanged. (That I does not advance is the spec's decision D12.) -/
def Obligations.RegisterLoadReadsRange : Prop :=
  ∀ (x : Reg) (s : State), s.i.toNat + x.val ≤ 0xFFF →
    ∃ t, exec (.ldVxMem x) s = .next t ∧ t = { s with v := t.v } ∧
      (∀ r : Reg, r ≤ x → t.getV r = s.readByte (s.i.toNat + r.val)) ∧
      ∀ r : Reg, x < r → t.getV r = s.getV r

/-- R153, R154, R155, R171 with 20_memory R54: when a byte of the range is above 0xFFF the instruction raises
MemoryOutOfBounds with the lowest such address and none of its writes takes effect. (Checking the whole range first is the
spec's decision D5, what an error leaves its decision D4.) -/
def Obligations.RangeBeyondMemoryRaises : Prop :=
  ∀ (x y : Reg) (n : Nibble) (s : State),
    (s.i.toNat + 2 > 0xFFF →
      exec (.ldBVx x) s = .next (s.erred .memoryOutOfBounds (encodeWord (.ldBVx x)) (some 0x1000))) ∧
    (s.i.toNat + x.val > 0xFFF →
      exec (.ldMemVx x) s = .next (s.erred .memoryOutOfBounds (encodeWord (.ldMemVx x)) (some 0x1000)) ∧
      exec (.ldVxMem x) s = .next (s.erred .memoryOutOfBounds (encodeWord (.ldVxMem x)) (some 0x1000))) ∧
    (1 ≤ n.toNat → s.i.toNat + n.toNat - 1 > 0xFFF →
      exec (.drw x y n) s = .next (s.erred .memoryOutOfBounds (encodeWord (.drw x y n)) (some 0x1000)))

/-- 20_memory R66, 70_reset R257: self-modifying code. After FX55 has stored two bytes at the address pc then holds, the word
the next cycle fetches is those two bytes. (The source is silent; the spec's decision D24.) -/
def Obligations.StoredWordIsFetchedNext : Prop :=
  ∀ (x : Reg) (s t : State), 1 ≤ x.val → s.i.toNat + x.val ≤ 0xFFF → s.pc.toNat = s.i.toNat →
    exec (.ldMemVx x) s = .next t →
    t.fetchWord.toNat = 256 * (s.getV 0).toNat + (s.getV 1).toNat

/-! ### Display (43_display) -/

/-- R170, 30_encoding R86: CLS unsets every cell, reports drew, and changes nothing else. (That drew is true for every completed
CLS is the spec's decision D31, held in State by the model's choice, log 9; that VF, which the source does not name, stays is
the spec's decision D9.) -/
def Obligations.ClearScreenUnsetsEveryCell : Prop :=
  encodeWord .cls = 0x00E0 ∧
  ∀ s : State, ∃ t, exec .cls s = .next t ∧ t = { s with disp := t.disp, drew := true } ∧
    ∀ cx cy, Display.cell t.disp cx cy = false

/-- R171, R172, R173: with the N sprite bytes in memory (or N = 0), DRW flips exactly the cells its 1-bits cover, with
wrap; VF is 1 exactly when a covered cell was set; no other register, no byte of memory and no other field changes, and
the coordinates are the values before VF is written. (The bit order is the spec's decision D14, the operand read
time and N = 0 its decision D15; that drew is true for every completed DRW is its decision D31, held in State by the model's
choice, log 9.) -/
def Obligations.DrawFlipsCoveredCells : Prop :=
  ∀ (x y : Reg) (n : Nibble) (s : State), n = 0 ∨ s.i.toNat + n.toNat - 1 ≤ 0xFFF →
    ∃ t, exec (.drw x y n) s = .next t ∧ t = { s with v := t.v, disp := t.disp, drew := true } ∧
      (∀ cx cy, (Display.cell t.disp cx cy ≠ Display.cell s.disp cx cy ↔ s.Covers x y n.toNat cx cy)) ∧
      ((∃ cx cy, s.Covers x y n.toNat cx cy ∧ Display.cell s.disp cx cy = true) → t.getV Reg.flag = 1) ∧
      ((¬∃ cx cy, s.Covers x y n.toNat cx cy ∧ Display.cell s.disp cx cy = true) → t.getV Reg.flag = 0) ∧
      ∀ r, r ≠ Reg.flag → t.getV r = s.getV r

/-- R173: drawing the same sprite at the same place twice restores the display, and the second draw's VF is 1 exactly when
the first turned a cell from unset to set. Between the draws only the V registers, pc and drew may have been changed, with
V[X] and V[Y] as they were. (The operand read time, which decides the cells when X or Y is F, and N = 0 are the spec's
decision D15; `drew` in State is log 9.) -/
def Obligations.DrawingTwiceRestoresDisplay : Prop :=
  ∀ (x y : Reg) (n : Nibble) (s t u w : State), n = 0 ∨ s.i.toNat + n.toNat - 1 ≤ 0xFFF →
    exec (.drw x y n) s = .next t → u = { t with v := u.v, pc := u.pc, drew := u.drew } →
    u.getV x = s.getV x → u.getV y = s.getV y → exec (.drw x y n) u = .next w →
    w.disp = s.disp ∧
    (w.getV Reg.flag = 1 ↔ ∃ cx cy, Display.cell s.disp cx cy = false ∧ Display.cell t.disp cx cy = true)

/-- R173: CLS and then a draw: the display is exactly the sprite's bits, and VF is 0. (Which cells those are follows R172,
whose bit order is the spec's decision D14, with the coordinates read as R171 says, its decision D15.) -/
def Obligations.ClearThenDrawShowsSprite : Prop :=
  ∀ (x y : Reg) (n : Nibble) (s : State), n = 0 ∨ s.i.toNat + n.toNat - 1 ≤ 0xFFF →
    ∃ t u, exec .cls s = .next t ∧ exec (.drw x y n) { t with pc := t.pc + 2 } = .next u ∧ u.getV Reg.flag = 0 ∧
      ∀ cx cy, Display.cell u.disp cx cy = true ↔ s.Covers x y n.toNat cx cy

/-! ### Keys and timers (44_input_timers) -/

/-- R190, R191, R192: SKP skips exactly when V[X] names a key that is down, SKNP exactly when it does not. That a value
above 15 names no key is the spec's decision D17. -/
def Obligations.KeySkipsReadSnapshot : Prop :=
  ∀ (x : Reg) (s : State),
    exec (.skp x) s = .next
      (if (s.getV x).toNat ≤ 15 ∧ s.input.keys.getLsbD (s.getV x).toNat = true then { s with pc := s.pc + 2 } else s) ∧
    exec (.sknp x) s = .next
      (if (s.getV x).toNat ≤ 15 ∧ s.input.keys.getLsbD (s.getV x).toNat = true then s else { s with pc := s.pc + 2 })

/-- R193, R194, R195: FX07 copies DT into V[X], FX15 and FX18 copy V[X] into DT and ST; nothing else changes. -/
def Obligations.TimerMovesCopyValues : Prop :=
  ∀ (x : Reg) (s : State),
    (encodeWord (.ldVxDt x)).toNat = 0xF007 + 0x100 * x.val ∧
    (encodeWord (.ldDtVx x)).toNat = 0xF015 + 0x100 * x.val ∧
    (encodeWord (.ldStVx x)).toNat = 0xF018 + 0x100 * x.val ∧
    (∃ t, exec (.ldVxDt x) s = .next t ∧ t = { s with v := t.v } ∧ t.getV x = s.dt ∧
      ∀ r, r ≠ x → t.getV r = s.getV r) ∧
    exec (.ldDtVx x) s = .next { s with dt := s.getV x } ∧
    exec (.ldStVx x) s = .next { s with st := s.getV x }

/-- R196: FX0A. With no baseline, or with no key newly down, it records this snapshot and stays at its own address; else it
takes the lowest-numbered newly pressed key and ends the wait. (What "newly pressed" means is the spec's decision D18.) -/
def Obligations.KeyWaitResolvesOnNewPress : Prop :=
  ∀ (x : Reg) (s : State),
    (s.wait = none →
      exec (.ldVxK x) s = .next { s with wait := some s.input.keys, pc := s.pc - 2 }) ∧
    (∀ b, s.wait = some b → (∀ k < 16, s.input.keys.getLsbD k = true → b.getLsbD k = true) →
      exec (.ldVxK x) s = .next { s with wait := some s.input.keys, pc := s.pc - 2 }) ∧
    (∀ b k, s.wait = some b → k < 16 → s.input.keys.getLsbD k = true → b.getLsbD k = false →
      (∀ j < k, s.input.keys.getLsbD j = true → b.getLsbD j = true) →
      ∃ t, exec (.ldVxK x) s = .next t ∧ t = { s with v := t.v, wait := none } ∧ (t.getV x).toNat = k ∧
        ∀ r, r ≠ x → t.getV r = s.getV r)

/-! ### The host's operations (60_exceptions, 70_reset) -/

/-- R233: Tick takes 1 from each timer, not below 0, and changes nothing else; it is admitted in every state, while waiting
and after an error too. -/
def Obligations.TickCountsBothTimersDown : Prop :=
  ∀ s s0 : State, s.HostNext .tick s0 →
    ∃ t, step s = .next t ∧ t = { s0 with dt := t.dt, st := t.st } ∧
      t.dt.toNat = (if s.dt.toNat > 0 then s.dt.toNat - 1 else 0) ∧
      t.st.toNat = (if s.st.toNat > 0 then s.st.toNat - 1 else 0)

/-- 70_reset R250, R251, R252, 10_state R41: whatever the state was, an error recorded or not, Reset gives the reset state
of its parameters: zero memory with the font installed (that Reset itself installs it is the spec's decision D20), pc at
0x200, the rest zero, empty or none (its decision D19); the host's steps to come and the free values stay (the model's choice, log 6). Parameters that R6 excludes (its bounds are the spec's
decisions D21 and D22) are refused (the model's choice, log 11). -/
def Obligations.ResetBuildsFreshInstance : Prop :=
  ∀ (s s0 : State) (p : Params), s.HostNext (.reset p) s0 →
    (p.wellFormed = false → step s = .refused .parametersNotAdmitted) ∧
    (p.wellFormed = true → ∃ t, step s = .next t ∧
      (∀ j : Fin 80, t.readByte (p.fontBase + j.val) = p.fontTable[j.val]) ∧
      (∀ a, a < p.fontBase ∨ p.fontBase + 80 ≤ a → t.readByte a = 0) ∧
      (∀ r, t.getV r = 0) ∧ t.i = 0 ∧ t.pc = 0x200 ∧ t.stack = [] ∧ t.dt = 0 ∧ t.st = 0 ∧
      (∀ cx cy, Display.cell t.disp cx cy = false) ∧ t.wait = none ∧ t.err = none ∧ t.params = p ∧
      t.fresh = true ∧ t.schedule = s0.schedule ∧ t.standing = s0.standing ∧ t.freeIndex = s0.freeIndex)

/-- 70_reset R253, 60_exceptions R215, R231: on a freshly reset machine LoadRom copies a ROM of at most 3584 bytes to 0x200
and changes no other byte, and records RomTooLarge, with memory unchanged, for a longer one. Otherwise it is not admitted
(the spec's decision D27; refusing it is the model's form, log 10; the record's layout is the spec's decision D5). -/
def Obligations.LoadRomCopiesOrRecordsTooLarge : Prop :=
  ∀ (s s0 : State) (bytes : List Byte), s.HostNext (.loadRom bytes) s0 →
    (s.fresh = false → step s = .refused .loadNotAdmitted) ∧
    (s.fresh = true → bytes.length ≤ 3584 →
      ∃ t, step s = .next t ∧ t = { s0 with fresh := false, mem := t.mem } ∧
        (∀ j, (h : j < bytes.length) → t.readByte (0x200 + j) = bytes[j]) ∧
        ∀ a, a < 0x200 ∨ 0x200 + bytes.length ≤ a → t.readByte a = s.readByte a) ∧
    (s.fresh = true → 3584 < bytes.length →
      step s = .next { s0 with
        fresh := false
        err := some { kind := .romTooLarge, pc := s.pc, opcode := none, addr := none, len := some bytes.length } })

/-- R235: Stop changes no state, in any state, and a Cycle that comes after it resumes the machine: it runs as if there had
been no Stop; R234: Read changes nothing, and returns what the spec lists. What differs between `s` and
`s0` is the model's own record of the host's order (log 2). (What Read returns is the spec's decision D31.) -/
def Obligations.StopAndReadChangeNothing : Prop :=
  (∀ s s0 : State, s.HostNext .stop s0 ∨ s.HostNext .read s0 →
    step s = .next s0 ∧ s0 = { s with schedule := s0.schedule, freeIndex := s0.freeIndex }) ∧
  (∀ (s : State) (input : CycleInput) (rest : List HostStep), s.schedule = .stop :: .cycle input :: rest →
    ∃ t, step s = .next t ∧ step t = step { s with schedule := .cycle input :: rest }) ∧
  ∀ s : State, s.read.disp = s.disp ∧ s.read.dt = s.dt ∧ s.read.st = s.st ∧
    (s.read.awaiting = true ↔ s.wait ≠ none) ∧ s.read.err = s.err ∧ s.read.whole = s

/-- R238 (the spec's decision D25): core and host make one sequence of steps in the host's order. Any host step at all may be
next; a step that goes on uses up exactly the turn it took, whatever the instruction or the operation did; and where State
fixes no order, the next host step is a free value, drawn anew each time (the model's form, logs 1 and 2). -/
def Obligations.HostOrderIsFollowed : Prop :=
  (∀ (s : State) (h : HostStep) (rest : List HostStep),
    State.HostNext { s with schedule := h :: rest } h { s with schedule := rest }) ∧
  (∀ (s t s0 : State) (h : HostStep), s.HostNext h s0 → step s = .next t →
    t.schedule = s0.schedule ∧ t.standing = s0.standing ∧ t.freeIndex = s0.freeIndex) ∧
  ∀ s : State, s.schedule = [] → s.standing = [] →
    s.HostNext (Config.freeHostStep s.freeIndex) { s with freeIndex := s.freeIndex + 1 }

/-- R238, R235: an order without end, and no further Cycle, are both a state's future. With a standing order `l` the n-th turn
is entry n mod the length of `l`, for every n: cycles and ticks alternate for ever when `l` alternates, and no Cycle ever
comes again when `l` holds none. (Any order is the spec's decision D25; holding it in State is the model's choice, log 2.) -/
def Obligations.StandingOrderComesOverAndOver : Prop :=
  ∀ (s : State) (l : List HostStep) (n : Nat), s.schedule = [] → s.standing = l → (hl : l ≠ []) →
    (State.afterTurns n s).takeHostStep.1 = l[n % l.length]'(Nat.mod_lt n (List.length_pos_iff.mpr hl))
end

