-- ==== Sys2Proof/Laws/Encoding.lean ====
section
/-! SUPPORT. The bits of a word in each encoding format (spec 30_encoding R73): which operand bit stands where. -/

namespace Sys2Proof

theorem getLsbD_formatNnn (o : Nibble) (nnn : Word12) (k : Nat) :
    (formatNnn o nnn).getLsbD k = if k < 12 then nnn.getLsbD k else o.getLsbD (k - 12) := by
  rw [formatNnn, BitVec.getLsbD_append]

theorem getLsbD_formatXnn (o : Nibble) (x : Reg) (nn : Byte) (k : Nat) :
    (formatXnn o x nn).getLsbD k =
      if k < 8 then nn.getLsbD k else if k < 12 then x.bits.getLsbD (k - 8) else o.getLsbD (k - 12) := by
  rw [formatXnn, BitVec.getLsbD_append, BitVec.getLsbD_append]
  split_ifs <;> first | rfl | omega

theorem getLsbD_formatXyn (o : Nibble) (x y : Reg) (n : Nibble) (k : Nat) :
    (formatXyn o x y n).getLsbD k =
      if k < 4 then n.getLsbD k else if k < 8 then y.bits.getLsbD (k - 4)
      else if k < 12 then x.bits.getLsbD (k - 8) else o.getLsbD (k - 12) := by
  rw [formatXyn, BitVec.getLsbD_append, BitVec.getLsbD_append, BitVec.getLsbD_append]
  split_ifs <;> first | rfl | omega

theorem toNat_formatNnn (o : Nibble) (nnn : Word12) : (formatNnn o nnn).toNat = 4096 * o.toNat + nnn.toNat := by
  rw [formatNnn, BitVec.toNat_append, ← Nat.shiftLeft_add_eq_or_of_lt nnn.isLt, Nat.shiftLeft_eq]
  omega

theorem toNat_formatXnn (o : Nibble) (x : Reg) (nn : Byte) :
    (formatXnn o x nn).toNat = 4096 * o.toNat + 256 * x.val + nn.toNat := by
  have hx : x.bits.toNat = x.val := rfl
  rw [formatXnn, BitVec.toNat_append, ← Nat.shiftLeft_add_eq_or_of_lt nn.isLt, Nat.shiftLeft_eq,
    BitVec.toNat_append, ← Nat.shiftLeft_add_eq_or_of_lt x.bits.isLt, Nat.shiftLeft_eq, hx]
  omega

theorem toNat_formatXyn (o : Nibble) (x y : Reg) (n : Nibble) :
    (formatXyn o x y n).toNat = 4096 * o.toNat + 256 * x.val + 16 * y.val + n.toNat := by
  have hx : x.bits.toNat = x.val := rfl
  have hy : y.bits.toNat = y.val := rfl
  rw [formatXyn, BitVec.toNat_append, ← Nat.shiftLeft_add_eq_or_of_lt n.isLt, Nat.shiftLeft_eq,
    BitVec.toNat_append, ← Nat.shiftLeft_add_eq_or_of_lt y.bits.isLt, Nat.shiftLeft_eq,
    BitVec.toNat_append, ← Nat.shiftLeft_add_eq_or_of_lt x.bits.isLt, Nat.shiftLeft_eq, hx, hy]
  omega

/-- The two bytes of a word make the word again (20_memory R55). -/
theorem wordOfBytes_highByte_lowByte (w : Word16) : wordOfBytes (highByte w) (lowByte w) = w := by
  refine BitVec.eq_of_getLsbD_eq fun k hk => ?_
  rw [wordOfBytes, BitVec.getLsbD_append]
  simp only [highByte, lowByte, BitVec.getLsbD_extractLsb']
  split_ifs with h
  · simp [h]
  · have h1 : k - 8 < 8 := by omega
    have h2 : 8 + (k - 8) = k := by omega
    simp [h1, h2]

end Sys2Proof
end

