-- ==== Sys2Proof/Laws/State.lean ====
section
/-! SUPPORT. One lemma per field per update of State, so that no later proof unfolds a record update. -/

namespace Sys2Proof.Machine

variable (s : State)

/-! ### `setRegs` -/

section

variable (x : Vector Byte 16)

@[simp] theorem State.setRegs_v : (s.setRegs x).v = x := rfl
@[simp] theorem State.setRegs_pc : (s.setRegs x).pc = s.pc := rfl
@[simp] theorem State.setRegs_i : (s.setRegs x).i = s.i := rfl
@[simp] theorem State.setRegs_stack : (s.setRegs x).stack = s.stack := rfl
@[simp] theorem State.setRegs_dt : (s.setRegs x).dt = s.dt := rfl
@[simp] theorem State.setRegs_st : (s.setRegs x).st = s.st := rfl
@[simp] theorem State.setRegs_mem : (s.setRegs x).mem = s.mem := rfl
@[simp] theorem State.setRegs_disp : (s.setRegs x).disp = s.disp := rfl
@[simp] theorem State.setRegs_wait : (s.setRegs x).wait = s.wait := rfl
@[simp] theorem State.setRegs_err : (s.setRegs x).err = s.err := rfl
@[simp] theorem State.setRegs_params : (s.setRegs x).params = s.params := rfl
@[simp] theorem State.setRegs_schedule : (s.setRegs x).schedule = s.schedule := rfl
@[simp] theorem State.setRegs_standing : (s.setRegs x).standing = s.standing := rfl
@[simp] theorem State.setRegs_freeIndex : (s.setRegs x).freeIndex = s.freeIndex := rfl
@[simp] theorem State.setRegs_input : (s.setRegs x).input = s.input := rfl
@[simp] theorem State.setRegs_drew : (s.setRegs x).drew = s.drew := rfl
@[simp] theorem State.setRegs_fresh : (s.setRegs x).fresh = s.fresh := rfl

end

/-! ### `setPc` -/

section

variable (x : Word16)

@[simp] theorem State.setPc_v : (s.setPc x).v = s.v := rfl
@[simp] theorem State.setPc_pc : (s.setPc x).pc = x := rfl
@[simp] theorem State.setPc_i : (s.setPc x).i = s.i := rfl
@[simp] theorem State.setPc_stack : (s.setPc x).stack = s.stack := rfl
@[simp] theorem State.setPc_dt : (s.setPc x).dt = s.dt := rfl
@[simp] theorem State.setPc_st : (s.setPc x).st = s.st := rfl
@[simp] theorem State.setPc_mem : (s.setPc x).mem = s.mem := rfl
@[simp] theorem State.setPc_disp : (s.setPc x).disp = s.disp := rfl
@[simp] theorem State.setPc_wait : (s.setPc x).wait = s.wait := rfl
@[simp] theorem State.setPc_err : (s.setPc x).err = s.err := rfl
@[simp] theorem State.setPc_params : (s.setPc x).params = s.params := rfl
@[simp] theorem State.setPc_schedule : (s.setPc x).schedule = s.schedule := rfl
@[simp] theorem State.setPc_standing : (s.setPc x).standing = s.standing := rfl
@[simp] theorem State.setPc_freeIndex : (s.setPc x).freeIndex = s.freeIndex := rfl
@[simp] theorem State.setPc_input : (s.setPc x).input = s.input := rfl
@[simp] theorem State.setPc_drew : (s.setPc x).drew = s.drew := rfl
@[simp] theorem State.setPc_fresh : (s.setPc x).fresh = s.fresh := rfl

end

/-! ### `setI` -/

section

variable (x : Word12)

@[simp] theorem State.setI_v : (s.setI x).v = s.v := rfl
@[simp] theorem State.setI_pc : (s.setI x).pc = s.pc := rfl
@[simp] theorem State.setI_i : (s.setI x).i = x := rfl
@[simp] theorem State.setI_stack : (s.setI x).stack = s.stack := rfl
@[simp] theorem State.setI_dt : (s.setI x).dt = s.dt := rfl
@[simp] theorem State.setI_st : (s.setI x).st = s.st := rfl
@[simp] theorem State.setI_mem : (s.setI x).mem = s.mem := rfl
@[simp] theorem State.setI_disp : (s.setI x).disp = s.disp := rfl
@[simp] theorem State.setI_wait : (s.setI x).wait = s.wait := rfl
@[simp] theorem State.setI_err : (s.setI x).err = s.err := rfl
@[simp] theorem State.setI_params : (s.setI x).params = s.params := rfl
@[simp] theorem State.setI_schedule : (s.setI x).schedule = s.schedule := rfl
@[simp] theorem State.setI_standing : (s.setI x).standing = s.standing := rfl
@[simp] theorem State.setI_freeIndex : (s.setI x).freeIndex = s.freeIndex := rfl
@[simp] theorem State.setI_input : (s.setI x).input = s.input := rfl
@[simp] theorem State.setI_drew : (s.setI x).drew = s.drew := rfl
@[simp] theorem State.setI_fresh : (s.setI x).fresh = s.fresh := rfl

end

/-! ### `setStack` -/

section

variable (x : List Word16)

@[simp] theorem State.setStack_v : (s.setStack x).v = s.v := rfl
@[simp] theorem State.setStack_pc : (s.setStack x).pc = s.pc := rfl
@[simp] theorem State.setStack_i : (s.setStack x).i = s.i := rfl
@[simp] theorem State.setStack_stack : (s.setStack x).stack = x := rfl
@[simp] theorem State.setStack_dt : (s.setStack x).dt = s.dt := rfl
@[simp] theorem State.setStack_st : (s.setStack x).st = s.st := rfl
@[simp] theorem State.setStack_mem : (s.setStack x).mem = s.mem := rfl
@[simp] theorem State.setStack_disp : (s.setStack x).disp = s.disp := rfl
@[simp] theorem State.setStack_wait : (s.setStack x).wait = s.wait := rfl
@[simp] theorem State.setStack_err : (s.setStack x).err = s.err := rfl
@[simp] theorem State.setStack_params : (s.setStack x).params = s.params := rfl
@[simp] theorem State.setStack_schedule : (s.setStack x).schedule = s.schedule := rfl
@[simp] theorem State.setStack_standing : (s.setStack x).standing = s.standing := rfl
@[simp] theorem State.setStack_freeIndex : (s.setStack x).freeIndex = s.freeIndex := rfl
@[simp] theorem State.setStack_input : (s.setStack x).input = s.input := rfl
@[simp] theorem State.setStack_drew : (s.setStack x).drew = s.drew := rfl
@[simp] theorem State.setStack_fresh : (s.setStack x).fresh = s.fresh := rfl

end

/-! ### `setDt` -/

section

variable (x : Byte)

@[simp] theorem State.setDt_v : (s.setDt x).v = s.v := rfl
@[simp] theorem State.setDt_pc : (s.setDt x).pc = s.pc := rfl
@[simp] theorem State.setDt_i : (s.setDt x).i = s.i := rfl
@[simp] theorem State.setDt_stack : (s.setDt x).stack = s.stack := rfl
@[simp] theorem State.setDt_dt : (s.setDt x).dt = x := rfl
@[simp] theorem State.setDt_st : (s.setDt x).st = s.st := rfl
@[simp] theorem State.setDt_mem : (s.setDt x).mem = s.mem := rfl
@[simp] theorem State.setDt_disp : (s.setDt x).disp = s.disp := rfl
@[simp] theorem State.setDt_wait : (s.setDt x).wait = s.wait := rfl
@[simp] theorem State.setDt_err : (s.setDt x).err = s.err := rfl
@[simp] theorem State.setDt_params : (s.setDt x).params = s.params := rfl
@[simp] theorem State.setDt_schedule : (s.setDt x).schedule = s.schedule := rfl
@[simp] theorem State.setDt_standing : (s.setDt x).standing = s.standing := rfl
@[simp] theorem State.setDt_freeIndex : (s.setDt x).freeIndex = s.freeIndex := rfl
@[simp] theorem State.setDt_input : (s.setDt x).input = s.input := rfl
@[simp] theorem State.setDt_drew : (s.setDt x).drew = s.drew := rfl
@[simp] theorem State.setDt_fresh : (s.setDt x).fresh = s.fresh := rfl

end

/-! ### `setSt` -/

section

variable (x : Byte)

@[simp] theorem State.setSt_v : (s.setSt x).v = s.v := rfl
@[simp] theorem State.setSt_pc : (s.setSt x).pc = s.pc := rfl
@[simp] theorem State.setSt_i : (s.setSt x).i = s.i := rfl
@[simp] theorem State.setSt_stack : (s.setSt x).stack = s.stack := rfl
@[simp] theorem State.setSt_dt : (s.setSt x).dt = s.dt := rfl
@[simp] theorem State.setSt_st : (s.setSt x).st = x := rfl
@[simp] theorem State.setSt_mem : (s.setSt x).mem = s.mem := rfl
@[simp] theorem State.setSt_disp : (s.setSt x).disp = s.disp := rfl
@[simp] theorem State.setSt_wait : (s.setSt x).wait = s.wait := rfl
@[simp] theorem State.setSt_err : (s.setSt x).err = s.err := rfl
@[simp] theorem State.setSt_params : (s.setSt x).params = s.params := rfl
@[simp] theorem State.setSt_schedule : (s.setSt x).schedule = s.schedule := rfl
@[simp] theorem State.setSt_standing : (s.setSt x).standing = s.standing := rfl
@[simp] theorem State.setSt_freeIndex : (s.setSt x).freeIndex = s.freeIndex := rfl
@[simp] theorem State.setSt_input : (s.setSt x).input = s.input := rfl
@[simp] theorem State.setSt_drew : (s.setSt x).drew = s.drew := rfl
@[simp] theorem State.setSt_fresh : (s.setSt x).fresh = s.fresh := rfl

end

/-! ### `setMem` -/

section

variable (x : Memory)

@[simp] theorem State.setMem_v : (s.setMem x).v = s.v := rfl
@[simp] theorem State.setMem_pc : (s.setMem x).pc = s.pc := rfl
@[simp] theorem State.setMem_i : (s.setMem x).i = s.i := rfl
@[simp] theorem State.setMem_stack : (s.setMem x).stack = s.stack := rfl
@[simp] theorem State.setMem_dt : (s.setMem x).dt = s.dt := rfl
@[simp] theorem State.setMem_st : (s.setMem x).st = s.st := rfl
@[simp] theorem State.setMem_mem : (s.setMem x).mem = x := rfl
@[simp] theorem State.setMem_disp : (s.setMem x).disp = s.disp := rfl
@[simp] theorem State.setMem_wait : (s.setMem x).wait = s.wait := rfl
@[simp] theorem State.setMem_err : (s.setMem x).err = s.err := rfl
@[simp] theorem State.setMem_params : (s.setMem x).params = s.params := rfl
@[simp] theorem State.setMem_schedule : (s.setMem x).schedule = s.schedule := rfl
@[simp] theorem State.setMem_standing : (s.setMem x).standing = s.standing := rfl
@[simp] theorem State.setMem_freeIndex : (s.setMem x).freeIndex = s.freeIndex := rfl
@[simp] theorem State.setMem_input : (s.setMem x).input = s.input := rfl
@[simp] theorem State.setMem_drew : (s.setMem x).drew = s.drew := rfl
@[simp] theorem State.setMem_fresh : (s.setMem x).fresh = s.fresh := rfl

end

/-! ### `setDisp` -/

section

variable (x : Display)

@[simp] theorem State.setDisp_v : (s.setDisp x).v = s.v := rfl
@[simp] theorem State.setDisp_pc : (s.setDisp x).pc = s.pc := rfl
@[simp] theorem State.setDisp_i : (s.setDisp x).i = s.i := rfl
@[simp] theorem State.setDisp_stack : (s.setDisp x).stack = s.stack := rfl
@[simp] theorem State.setDisp_dt : (s.setDisp x).dt = s.dt := rfl
@[simp] theorem State.setDisp_st : (s.setDisp x).st = s.st := rfl
@[simp] theorem State.setDisp_mem : (s.setDisp x).mem = s.mem := rfl
@[simp] theorem State.setDisp_disp : (s.setDisp x).disp = x := rfl
@[simp] theorem State.setDisp_wait : (s.setDisp x).wait = s.wait := rfl
@[simp] theorem State.setDisp_err : (s.setDisp x).err = s.err := rfl
@[simp] theorem State.setDisp_params : (s.setDisp x).params = s.params := rfl
@[simp] theorem State.setDisp_schedule : (s.setDisp x).schedule = s.schedule := rfl
@[simp] theorem State.setDisp_standing : (s.setDisp x).standing = s.standing := rfl
@[simp] theorem State.setDisp_freeIndex : (s.setDisp x).freeIndex = s.freeIndex := rfl
@[simp] theorem State.setDisp_input : (s.setDisp x).input = s.input := rfl
@[simp] theorem State.setDisp_drew : (s.setDisp x).drew = s.drew := rfl
@[simp] theorem State.setDisp_fresh : (s.setDisp x).fresh = s.fresh := rfl

end

/-! ### `setWait` -/

section

variable (x : Option Word16)

@[simp] theorem State.setWait_v : (s.setWait x).v = s.v := rfl
@[simp] theorem State.setWait_pc : (s.setWait x).pc = s.pc := rfl
@[simp] theorem State.setWait_i : (s.setWait x).i = s.i := rfl
@[simp] theorem State.setWait_stack : (s.setWait x).stack = s.stack := rfl
@[simp] theorem State.setWait_dt : (s.setWait x).dt = s.dt := rfl
@[simp] theorem State.setWait_st : (s.setWait x).st = s.st := rfl
@[simp] theorem State.setWait_mem : (s.setWait x).mem = s.mem := rfl
@[simp] theorem State.setWait_disp : (s.setWait x).disp = s.disp := rfl
@[simp] theorem State.setWait_wait : (s.setWait x).wait = x := rfl
@[simp] theorem State.setWait_err : (s.setWait x).err = s.err := rfl
@[simp] theorem State.setWait_params : (s.setWait x).params = s.params := rfl
@[simp] theorem State.setWait_schedule : (s.setWait x).schedule = s.schedule := rfl
@[simp] theorem State.setWait_standing : (s.setWait x).standing = s.standing := rfl
@[simp] theorem State.setWait_freeIndex : (s.setWait x).freeIndex = s.freeIndex := rfl
@[simp] theorem State.setWait_input : (s.setWait x).input = s.input := rfl
@[simp] theorem State.setWait_drew : (s.setWait x).drew = s.drew := rfl
@[simp] theorem State.setWait_fresh : (s.setWait x).fresh = s.fresh := rfl

end

/-! ### `setErr` -/

section

variable (x : Option ErrRecord)

@[simp] theorem State.setErr_v : (s.setErr x).v = s.v := rfl
@[simp] theorem State.setErr_pc : (s.setErr x).pc = s.pc := rfl
@[simp] theorem State.setErr_i : (s.setErr x).i = s.i := rfl
@[simp] theorem State.setErr_stack : (s.setErr x).stack = s.stack := rfl
@[simp] theorem State.setErr_dt : (s.setErr x).dt = s.dt := rfl
@[simp] theorem State.setErr_st : (s.setErr x).st = s.st := rfl
@[simp] theorem State.setErr_mem : (s.setErr x).mem = s.mem := rfl
@[simp] theorem State.setErr_disp : (s.setErr x).disp = s.disp := rfl
@[simp] theorem State.setErr_wait : (s.setErr x).wait = s.wait := rfl
@[simp] theorem State.setErr_err : (s.setErr x).err = x := rfl
@[simp] theorem State.setErr_params : (s.setErr x).params = s.params := rfl
@[simp] theorem State.setErr_schedule : (s.setErr x).schedule = s.schedule := rfl
@[simp] theorem State.setErr_standing : (s.setErr x).standing = s.standing := rfl
@[simp] theorem State.setErr_freeIndex : (s.setErr x).freeIndex = s.freeIndex := rfl
@[simp] theorem State.setErr_input : (s.setErr x).input = s.input := rfl
@[simp] theorem State.setErr_drew : (s.setErr x).drew = s.drew := rfl
@[simp] theorem State.setErr_fresh : (s.setErr x).fresh = s.fresh := rfl

end

/-! ### `setSchedule` -/

section

variable (x : List HostStep)

@[simp] theorem State.setSchedule_v : (s.setSchedule x).v = s.v := rfl
@[simp] theorem State.setSchedule_pc : (s.setSchedule x).pc = s.pc := rfl
@[simp] theorem State.setSchedule_i : (s.setSchedule x).i = s.i := rfl
@[simp] theorem State.setSchedule_stack : (s.setSchedule x).stack = s.stack := rfl
@[simp] theorem State.setSchedule_dt : (s.setSchedule x).dt = s.dt := rfl
@[simp] theorem State.setSchedule_st : (s.setSchedule x).st = s.st := rfl
@[simp] theorem State.setSchedule_mem : (s.setSchedule x).mem = s.mem := rfl
@[simp] theorem State.setSchedule_disp : (s.setSchedule x).disp = s.disp := rfl
@[simp] theorem State.setSchedule_wait : (s.setSchedule x).wait = s.wait := rfl
@[simp] theorem State.setSchedule_err : (s.setSchedule x).err = s.err := rfl
@[simp] theorem State.setSchedule_params : (s.setSchedule x).params = s.params := rfl
@[simp] theorem State.setSchedule_schedule : (s.setSchedule x).schedule = x := rfl
@[simp] theorem State.setSchedule_standing : (s.setSchedule x).standing = s.standing := rfl
@[simp] theorem State.setSchedule_freeIndex : (s.setSchedule x).freeIndex = s.freeIndex := rfl
@[simp] theorem State.setSchedule_input : (s.setSchedule x).input = s.input := rfl
@[simp] theorem State.setSchedule_drew : (s.setSchedule x).drew = s.drew := rfl
@[simp] theorem State.setSchedule_fresh : (s.setSchedule x).fresh = s.fresh := rfl

end

/-! ### `setStanding` -/

section

variable (x : List HostStep)

@[simp] theorem State.setStanding_v : (s.setStanding x).v = s.v := rfl
@[simp] theorem State.setStanding_pc : (s.setStanding x).pc = s.pc := rfl
@[simp] theorem State.setStanding_i : (s.setStanding x).i = s.i := rfl
@[simp] theorem State.setStanding_stack : (s.setStanding x).stack = s.stack := rfl
@[simp] theorem State.setStanding_dt : (s.setStanding x).dt = s.dt := rfl
@[simp] theorem State.setStanding_st : (s.setStanding x).st = s.st := rfl
@[simp] theorem State.setStanding_mem : (s.setStanding x).mem = s.mem := rfl
@[simp] theorem State.setStanding_disp : (s.setStanding x).disp = s.disp := rfl
@[simp] theorem State.setStanding_wait : (s.setStanding x).wait = s.wait := rfl
@[simp] theorem State.setStanding_err : (s.setStanding x).err = s.err := rfl
@[simp] theorem State.setStanding_params : (s.setStanding x).params = s.params := rfl
@[simp] theorem State.setStanding_schedule : (s.setStanding x).schedule = s.schedule := rfl
@[simp] theorem State.setStanding_standing : (s.setStanding x).standing = x := rfl
@[simp] theorem State.setStanding_freeIndex : (s.setStanding x).freeIndex = s.freeIndex := rfl
@[simp] theorem State.setStanding_input : (s.setStanding x).input = s.input := rfl
@[simp] theorem State.setStanding_drew : (s.setStanding x).drew = s.drew := rfl
@[simp] theorem State.setStanding_fresh : (s.setStanding x).fresh = s.fresh := rfl

end

/-! ### `setFreeIndex` -/

section

variable (x : Nat)

@[simp] theorem State.setFreeIndex_v : (s.setFreeIndex x).v = s.v := rfl
@[simp] theorem State.setFreeIndex_pc : (s.setFreeIndex x).pc = s.pc := rfl
@[simp] theorem State.setFreeIndex_i : (s.setFreeIndex x).i = s.i := rfl
@[simp] theorem State.setFreeIndex_stack : (s.setFreeIndex x).stack = s.stack := rfl
@[simp] theorem State.setFreeIndex_dt : (s.setFreeIndex x).dt = s.dt := rfl
@[simp] theorem State.setFreeIndex_st : (s.setFreeIndex x).st = s.st := rfl
@[simp] theorem State.setFreeIndex_mem : (s.setFreeIndex x).mem = s.mem := rfl
@[simp] theorem State.setFreeIndex_disp : (s.setFreeIndex x).disp = s.disp := rfl
@[simp] theorem State.setFreeIndex_wait : (s.setFreeIndex x).wait = s.wait := rfl
@[simp] theorem State.setFreeIndex_err : (s.setFreeIndex x).err = s.err := rfl
@[simp] theorem State.setFreeIndex_params : (s.setFreeIndex x).params = s.params := rfl
@[simp] theorem State.setFreeIndex_schedule : (s.setFreeIndex x).schedule = s.schedule := rfl
@[simp] theorem State.setFreeIndex_standing : (s.setFreeIndex x).standing = s.standing := rfl
@[simp] theorem State.setFreeIndex_freeIndex : (s.setFreeIndex x).freeIndex = x := rfl
@[simp] theorem State.setFreeIndex_input : (s.setFreeIndex x).input = s.input := rfl
@[simp] theorem State.setFreeIndex_drew : (s.setFreeIndex x).drew = s.drew := rfl
@[simp] theorem State.setFreeIndex_fresh : (s.setFreeIndex x).fresh = s.fresh := rfl

end

/-! ### `setInput` -/

section

variable (x : CycleInput)

@[simp] theorem State.setInput_v : (s.setInput x).v = s.v := rfl
@[simp] theorem State.setInput_pc : (s.setInput x).pc = s.pc := rfl
@[simp] theorem State.setInput_i : (s.setInput x).i = s.i := rfl
@[simp] theorem State.setInput_stack : (s.setInput x).stack = s.stack := rfl
@[simp] theorem State.setInput_dt : (s.setInput x).dt = s.dt := rfl
@[simp] theorem State.setInput_st : (s.setInput x).st = s.st := rfl
@[simp] theorem State.setInput_mem : (s.setInput x).mem = s.mem := rfl
@[simp] theorem State.setInput_disp : (s.setInput x).disp = s.disp := rfl
@[simp] theorem State.setInput_wait : (s.setInput x).wait = s.wait := rfl
@[simp] theorem State.setInput_err : (s.setInput x).err = s.err := rfl
@[simp] theorem State.setInput_params : (s.setInput x).params = s.params := rfl
@[simp] theorem State.setInput_schedule : (s.setInput x).schedule = s.schedule := rfl
@[simp] theorem State.setInput_standing : (s.setInput x).standing = s.standing := rfl
@[simp] theorem State.setInput_freeIndex : (s.setInput x).freeIndex = s.freeIndex := rfl
@[simp] theorem State.setInput_input : (s.setInput x).input = x := rfl
@[simp] theorem State.setInput_drew : (s.setInput x).drew = s.drew := rfl
@[simp] theorem State.setInput_fresh : (s.setInput x).fresh = s.fresh := rfl

end

/-! ### `setDrew` -/

section

variable (x : Bool)

@[simp] theorem State.setDrew_v : (s.setDrew x).v = s.v := rfl
@[simp] theorem State.setDrew_pc : (s.setDrew x).pc = s.pc := rfl
@[simp] theorem State.setDrew_i : (s.setDrew x).i = s.i := rfl
@[simp] theorem State.setDrew_stack : (s.setDrew x).stack = s.stack := rfl
@[simp] theorem State.setDrew_dt : (s.setDrew x).dt = s.dt := rfl
@[simp] theorem State.setDrew_st : (s.setDrew x).st = s.st := rfl
@[simp] theorem State.setDrew_mem : (s.setDrew x).mem = s.mem := rfl
@[simp] theorem State.setDrew_disp : (s.setDrew x).disp = s.disp := rfl
@[simp] theorem State.setDrew_wait : (s.setDrew x).wait = s.wait := rfl
@[simp] theorem State.setDrew_err : (s.setDrew x).err = s.err := rfl
@[simp] theorem State.setDrew_params : (s.setDrew x).params = s.params := rfl
@[simp] theorem State.setDrew_schedule : (s.setDrew x).schedule = s.schedule := rfl
@[simp] theorem State.setDrew_standing : (s.setDrew x).standing = s.standing := rfl
@[simp] theorem State.setDrew_freeIndex : (s.setDrew x).freeIndex = s.freeIndex := rfl
@[simp] theorem State.setDrew_input : (s.setDrew x).input = s.input := rfl
@[simp] theorem State.setDrew_drew : (s.setDrew x).drew = x := rfl
@[simp] theorem State.setDrew_fresh : (s.setDrew x).fresh = s.fresh := rfl

end

/-! ### `setFresh` -/

section

variable (x : Bool)

@[simp] theorem State.setFresh_v : (s.setFresh x).v = s.v := rfl
@[simp] theorem State.setFresh_pc : (s.setFresh x).pc = s.pc := rfl
@[simp] theorem State.setFresh_i : (s.setFresh x).i = s.i := rfl
@[simp] theorem State.setFresh_stack : (s.setFresh x).stack = s.stack := rfl
@[simp] theorem State.setFresh_dt : (s.setFresh x).dt = s.dt := rfl
@[simp] theorem State.setFresh_st : (s.setFresh x).st = s.st := rfl
@[simp] theorem State.setFresh_mem : (s.setFresh x).mem = s.mem := rfl
@[simp] theorem State.setFresh_disp : (s.setFresh x).disp = s.disp := rfl
@[simp] theorem State.setFresh_wait : (s.setFresh x).wait = s.wait := rfl
@[simp] theorem State.setFresh_err : (s.setFresh x).err = s.err := rfl
@[simp] theorem State.setFresh_params : (s.setFresh x).params = s.params := rfl
@[simp] theorem State.setFresh_schedule : (s.setFresh x).schedule = s.schedule := rfl
@[simp] theorem State.setFresh_standing : (s.setFresh x).standing = s.standing := rfl
@[simp] theorem State.setFresh_freeIndex : (s.setFresh x).freeIndex = s.freeIndex := rfl
@[simp] theorem State.setFresh_input : (s.setFresh x).input = s.input := rfl
@[simp] theorem State.setFresh_drew : (s.setFresh x).drew = s.drew := rfl
@[simp] theorem State.setFresh_fresh : (s.setFresh x).fresh = x := rfl

end

end Sys2Proof.Machine
end

