-- ==== Sys2Proof/Laws/Exec.lean ====
section
/-! SUPPORT. `exec` on each instruction is that instruction's meaning: one lemma per arm, so that no proof unfolds the
dispatch. -/

namespace Sys2Proof.Machine

variable (s : State) (x y : Reg) (nn : Byte) (nnn : Word12) (n : Nibble)

@[simp] theorem exec_cls : exec .cls s = execCls s := rfl
@[simp] theorem exec_ret : exec .ret s = execRet s := rfl
@[simp] theorem exec_jp : exec (.jp nnn) s = execJp nnn s := rfl
@[simp] theorem exec_call : exec (.call nnn) s = execCall nnn s := rfl
@[simp] theorem exec_seImm : exec (.seImm x nn) s = execSeImm x nn s := rfl
@[simp] theorem exec_sneImm : exec (.sneImm x nn) s = execSneImm x nn s := rfl
@[simp] theorem exec_seReg : exec (.seReg x y) s = execSeReg x y s := rfl
@[simp] theorem exec_ldImm : exec (.ldImm x nn) s = execLdImm x nn s := rfl
@[simp] theorem exec_addImm : exec (.addImm x nn) s = execAddImm x nn s := rfl
@[simp] theorem exec_ldReg : exec (.ldReg x y) s = execLdReg x y s := rfl
@[simp] theorem exec_orReg : exec (.orReg x y) s = execOr x y s := rfl
@[simp] theorem exec_andReg : exec (.andReg x y) s = execAnd x y s := rfl
@[simp] theorem exec_xorReg : exec (.xorReg x y) s = execXor x y s := rfl
@[simp] theorem exec_addReg : exec (.addReg x y) s = execAddReg x y s := rfl
@[simp] theorem exec_sub : exec (.sub x y) s = execSub x y s := rfl
@[simp] theorem exec_shr : exec (.shr x y) s = execShr x y s := rfl
@[simp] theorem exec_subn : exec (.subn x y) s = execSubn x y s := rfl
@[simp] theorem exec_shl : exec (.shl x y) s = execShl x y s := rfl
@[simp] theorem exec_sneReg : exec (.sneReg x y) s = execSneReg x y s := rfl
@[simp] theorem exec_ldI : exec (.ldI nnn) s = execLdI nnn s := rfl
@[simp] theorem exec_jpV0 : exec (.jpV0 nnn) s = execJpV0 nnn s := rfl
@[simp] theorem exec_rnd : exec (.rnd x nn) s = execRnd x nn s := rfl
@[simp] theorem exec_drw : exec (.drw x y n) s = execDrw x y n s := rfl
@[simp] theorem exec_skp : exec (.skp x) s = execSkp x s := rfl
@[simp] theorem exec_sknp : exec (.sknp x) s = execSknp x s := rfl
@[simp] theorem exec_ldVxDt : exec (.ldVxDt x) s = execLdVxDt x s := rfl
@[simp] theorem exec_ldVxK : exec (.ldVxK x) s = execLdVxK x s := rfl
@[simp] theorem exec_ldDtVx : exec (.ldDtVx x) s = execLdDtVx x s := rfl
@[simp] theorem exec_ldStVx : exec (.ldStVx x) s = execLdStVx x s := rfl
@[simp] theorem exec_addIVx : exec (.addIVx x) s = execAddIVx x s := rfl
@[simp] theorem exec_ldFVx : exec (.ldFVx x) s = execLdFVx x s := rfl
@[simp] theorem exec_ldBVx : exec (.ldBVx x) s = execLdBVx x s := rfl
@[simp] theorem exec_ldMemVx : exec (.ldMemVx x) s = execLdMemVx x s := rfl
@[simp] theorem exec_ldVxMem : exec (.ldVxMem x) s = execLdVxMem x s := rfl

end Sys2Proof.Machine
end

