-- ==== Sys2Proof/Laws/Memory.lean ====
section
/-! SUPPORT. The laws of memory: a read after a write, a write leaves every other byte alone (spec 20_memory R53, R58), and
every memory operation keeps the canonical form of the listing. -/

namespace Sys2Proof.Machine

variable (p : Params) (m : Memory) (a c : Nat) (b : Byte)

@[simp] theorem Memory.read_nil : Memory.read p [] a = initialByte p a := rfl

theorem Memory.read_cons (k : Nat) (d : Byte) :
    Memory.read p ((k, d) :: m) a = if a = k then d else Memory.read p m a := rfl

theorem Memory.read_erase :
    Memory.read p (Memory.erase m a) c = if c = a then initialByte p c else Memory.read p m c := by
  induction m with
  | nil => simp [Memory.erase]
  | cons e rest ih =>
    obtain ⟨k, d⟩ := e
    simp only [Memory.erase] at ih ⊢
    by_cases hk : k = a
    · subst hk
      simp only [List.filter_cons, bne_self_eq_false, Bool.false_eq_true, if_false, ih, Memory.read_cons]
      split_ifs <;> simp_all
    · simp only [List.filter_cons, bne_iff_ne, ne_eq, hk, not_false_eq_true, if_true, Memory.read_cons, ih]
      split_ifs <;> simp_all

/-- No listed entry has address `a`. -/
abbrev Memory.Unlisted : Prop := ∀ e ∈ m, e.1 ≠ a

theorem Memory.erase_unlisted : Memory.Unlisted (Memory.erase m a) a := by
  intro e he
  simpa [Memory.erase] using (List.mem_filter.mp he).2

theorem Memory.read_insert (h : Memory.Unlisted m a) :
    Memory.read p (Memory.insert m a b) c = if c = a then b else Memory.read p m c := by
  induction m with
  | nil => simp [Memory.insert, Memory.read_cons]
  | cons e rest ih =>
    obtain ⟨k, d⟩ := e
    have hk : k ≠ a := h (k, d) List.mem_cons_self
    have ih := ih fun e he => h e (List.mem_cons_of_mem _ he)
    simp only [Memory.insert]
    split_ifs with hlt <;> simp only [Memory.read_cons, ih] <;> split_ifs <;> simp_all

/-- A write changes the addressed byte and no other; above 0xFFF it changes nothing (R53). -/
theorem Memory.read_write :
    Memory.read p (Memory.write p m a b) c = if c = a ∧ a ≤ maxAddr then b else Memory.read p m c := by
  have herase := Memory.read_erase p m a c
  have hinsert := Memory.read_insert p _ a c b (Memory.erase_unlisted m a)
  unfold Memory.write
  by_cases hr : maxAddr < a
  · rw [if_pos hr, if_neg (by omega)]
  · rw [if_neg hr]
    by_cases hc : c = a
    · subst hc
      rw [if_pos (show c = c ∧ c ≤ maxAddr by omega)]
      split_ifs with hb
      · rw [herase, if_pos rfl, hb]
      · rw [hinsert, if_pos rfl]
    · rw [if_neg (show ¬(c = a ∧ a ≤ maxAddr) by tauto)]
      split_ifs with hb
      · rw [herase, if_neg hc]
      · rw [hinsert, if_neg hc, herase, if_neg hc]

theorem Memory.mem_insert (e : Host.Cell) : e ∈ Memory.insert m a b ↔ e = (a, b) ∨ e ∈ m := by
  induction m with
  | nil => simp [Memory.insert]
  | cons f rest ih =>
    obtain ⟨k, d⟩ := f
    simp only [Memory.insert]
    split_ifs <;> simp [ih, or_left_comm]

theorem Memory.insert_rising (h : m.Pairwise (fun c d => c.1 < d.1)) (hu : Memory.Unlisted m a) :
    (Memory.insert m a b).Pairwise (fun c d => c.1 < d.1) := by
  induction m with
  | nil => simp [Memory.insert]
  | cons e rest ih =>
    obtain ⟨k, d⟩ := e
    rw [List.pairwise_cons] at h
    have hk : k ≠ a := hu (k, d) List.mem_cons_self
    simp only [Memory.insert]
    split_ifs with hlt
    · refine List.pairwise_cons.mpr ⟨fun e he => ?_, List.pairwise_cons.mpr h⟩
      rcases List.mem_cons.mp he with rfl | he
      · exact hlt
      · exact lt_trans hlt (h.1 e he)
    · refine List.pairwise_cons.mpr ⟨fun e he => ?_, ih h.2 fun e he => hu e (List.mem_cons_of_mem _ he)⟩
      rcases (Memory.mem_insert rest a b e).mp he with rfl | he
      · simp only; omega
      · exact h.1 e he

/-- The canonical form is kept by every write. -/
theorem Memory.write_wf (h : Memory.wf p m) : Memory.wf p (Memory.write p m a b) := by
  have herase : Memory.wf p (Memory.erase m a) :=
    ⟨h.1.filter _, fun e he => h.2 e (List.mem_filter.mp he).1⟩
  unfold Memory.write
  split_ifs with hr hb
  · exact h
  · exact herase
  · refine ⟨Memory.insert_rising _ _ _ herase.1 (Memory.erase_unlisted m a), fun e he => ?_⟩
    rcases (Memory.mem_insert _ _ _ e).mp he with rfl | he
    · exact ⟨by omega, hb⟩
    · exact herase.2 e he

theorem Memory.nil_wf : Memory.wf p [] := by simp [Memory.wf]

/-- The memory after reset is in canonical form. -/
theorem State.reset_mem_wf : Memory.wf State.reset.params State.reset.mem := Memory.nil_wf _

end Sys2Proof.Machine
end

