-- ==== Sys2Proof/Laws/Ops.lean ====
section
/-! SUPPORT. One lemma for each shared operation, saying all that it does; the meanings' properties are proved from these
and not by unfolding the operations. -/

namespace Sys2Proof.Machine

variable (s : State)

theorem maxAddr_eq : maxAddr = 0xFFF := rfl

theorem maxRom_eq : maxRom = 3584 := rfl

/-! ### Registers -/

theorem State.setV_eq (r : Reg) (b : Byte) : s.setV r b = { s with v := (s.setV r b).v } := rfl

/-- Writing one V register changes that register alone. -/
theorem State.getV_setV (r q : Reg) (b : Byte) : (s.setV r b).getV q = if q = r then b else s.getV q := by
  simp only [State.setV, State.getV, State.setRegs_v, Vector.getElem_set]
  simp only [Fin.ext_iff, eq_comm]

/-- Loading a list of bytes from register `k` up writes those registers and nothing else. -/
theorem State.setVs_eq (l : List Byte) : ∀ (s : State) (k : Nat), s.setVs k l = { s with v := (s.setVs k l).v } := by
  induction l with
  | nil => intro s k; rfl
  | cons b rest ih =>
    intro s k
    simp only [State.setVs]
    rw [ih]
    split <;> rfl

theorem State.getV_setVs (l : List Byte) : ∀ (s : State) (k : Nat) (q : Reg),
    (s.setVs k l).getV q = if h : k ≤ q.val ∧ q.val < k + l.length then l[q.val - k]'(by omega) else s.getV q := by
  induction l with
  | nil => intro s k q; simp only [State.setVs, List.length_nil]; rw [dif_neg (by omega)]
  | cons b rest ih =>
    intro s k q
    have hset : ((if h : k < 16 then s.setV ⟨k, h⟩ b else s).getV q) = if q.val = k then b else s.getV q := by
      split
      · simp [State.getV_setV, Fin.ext_iff]
      · rw [if_neg (by omega)]
    simp only [State.setVs, ih, hset, List.length_cons]
    by_cases h1 : q.val = k
    · rw [dif_neg (by omega), if_pos h1, dif_pos (by omega)]
      simp [h1]
    · by_cases h2 : k + 1 ≤ q.val ∧ q.val < k + 1 + rest.length
      · rw [dif_pos h2, dif_pos (by omega)]
        have : q.val - k = (q.val - (k + 1)) + 1 := by omega
        simp [this]
      · rw [dif_neg h2, if_neg h1, dif_neg (by omega)]

/-- The result and then the flag: VF holds the flag, V[x] the result unless x is F, the rest is unchanged. -/
theorem State.getV_setResultFlag (x q : Reg) (b : Byte) (f : Bool) :
    (s.setResultFlag x b f).getV q = if q = Reg.flag then flagByte f else if q = x then b else s.getV q := by
  simp only [State.setResultFlag, State.getV_setV]

theorem State.setResultFlag_eq (x : Reg) (b : Byte) (f : Bool) :
    s.setResultFlag x b f = { s with v := (s.setResultFlag x b f).v } := rfl

/-! ### Memory -/

theorem State.readByte_writeByte (a c : Nat) (b : Byte) :
    (s.writeByte a b).readByte c = if c = a ∧ a ≤ maxAddr then b else s.readByte c :=
  Memory.read_write ..

/-- A store changes memory and nothing else. -/
theorem State.storeBytes_eq (l : List Byte) : ∀ (s : State) (a : Nat), s.storeBytes a l = { s with mem := (s.storeBytes a l).mem } := by
  induction l with
  | nil => intro s a; rfl
  | cons b rest ih =>
    intro s a
    simp only [State.storeBytes]
    rw [ih]
    rfl

/-- A store that lies in memory: each stored byte reads back, every other byte is unchanged. -/
theorem State.readByte_storeBytes (l : List Byte) : ∀ (s : State) (a c : Nat), a + l.length ≤ 0x1000 →
    (s.storeBytes a l).readByte c =
      if h : a ≤ c ∧ c < a + l.length then l[c - a]'(by omega) else s.readByte c := by
  induction l with
  | nil => intro s a c _; simp only [State.storeBytes, List.length_nil]; rw [dif_neg (by omega)]
  | cons b rest ih =>
    intro s a c ha
    have := maxAddr_eq
    simp only [List.length_cons] at ha
    simp only [State.storeBytes, List.length_cons]
    rw [ih _ _ _ (by omega), State.readByte_writeByte]
    by_cases h1 : c = a
    · rw [dif_neg (by omega), if_pos (by omega), dif_pos (by omega)]
      simp [h1]
    · by_cases h2 : a + 1 ≤ c ∧ c < a + 1 + rest.length
      · rw [dif_pos h2, dif_pos (by omega)]
        have : c - a = (c - (a + 1)) + 1 := by omega
        simp [this]
      · rw [dif_neg h2, if_neg (by omega), dif_neg (by omega)]

/-- A store keeps the canonical form of memory, wherever it goes. -/
theorem State.storeBytes_wf (l : List Byte) : ∀ (s : State) (a : Nat), Memory.wf s.params s.mem →
    Memory.wf s.params (s.storeBytes a l).mem := by
  induction l with
  | nil => intro s a h; exact h
  | cons b rest ih =>
    intro s a h
    exact ih (s.writeByte a b) (a + 1) (Memory.write_wf _ _ _ _ h)

theorem State.length_loadBytes (a n : Nat) : (s.loadBytes a n).length = n := by simp [State.loadBytes]

theorem State.getElem_loadBytes (a n j : Nat) (h : j < (s.loadBytes a n).length) :
    (s.loadBytes a n)[j] = s.readByte (a + j) := by simp [State.loadBytes]

/-! ### Range checks and errors -/

/-- CheckRange (20_memory R54): what each answer means. -/
theorem checkRange_eq_none (base n : Nat) : checkRange base n = none ↔ n = 0 ∨ base + n ≤ 0x1000 := by
  have := maxAddr_eq
  unfold checkRange
  split_ifs <;> simp <;> omega

theorem checkRange_eq_some (base n a : Nat) :
    checkRange base n = some a ↔ a = max base 0x1000 ∧ 1 ≤ n ∧ 0x1000 < base + n := by
  have := maxAddr_eq
  unfold checkRange
  split_ifs with h
  · simp only [Option.some.injEq]
    omega
  · simp only [false_iff]
    omega

/-- `raise` undoes the advance and records the error; nothing else changes (30_encoding R84). -/
theorem State.raise_eq_erred (kind : ErrKind) (w : Word16) (addr : Option Nat) :
    s.raise kind w addr = s.erred kind w addr := rfl

/-- A guarded access: its effect when the range is in memory, else MemoryOutOfBounds with nothing written. The address
recorded is 0x1000 for every base in memory. -/
theorem State.withRange_ok (w : Word16) (base n : Nat) (t : State) (h : n = 0 ∨ base + n ≤ 0x1000) :
    s.withRange w base n t = t := by
  rw [State.withRange, (checkRange_eq_none base n).mpr h]

theorem State.withRange_raises (w : Word16) (base n : Nat) (t : State) (h1 : 1 ≤ n) (h2 : 0x1000 < base + n) :
    s.withRange w base n t = s.erred .memoryOutOfBounds w (some (max base 0x1000)) := by
  rw [State.withRange, (checkRange_eq_some base n _).mpr ⟨rfl, h1, h2⟩]
  rfl

/-- The two things a guarded access can be. -/
theorem State.withRange_cases (w : Word16) (base n : Nat) (t : State) :
    ((n = 0 ∨ base + n ≤ 0x1000) ∧ s.withRange w base n t = t) ∨
    ((1 ≤ n ∧ 0x1000 < base + n) ∧ s.withRange w base n t = s.erred .memoryOutOfBounds w (some (max base 0x1000))) := by
  by_cases h : n = 0 ∨ base + n ≤ 0x1000
  · exact .inl ⟨h, s.withRange_ok w base n t h⟩
  · exact .inr ⟨by omega, s.withRange_raises w base n t (by omega) (by omega)⟩

/-- The same for a range that starts at I: I is in memory, so the address recorded is 0x1000. -/
theorem State.withIndexRange_cases (w : Word16) (n : Nat) (t : State) :
    ((n = 0 ∨ s.i.toNat + n ≤ 0x1000) ∧ s.withRange w s.i.toNat n t = t) ∨
    ((1 ≤ n ∧ 0x1000 < s.i.toNat + n) ∧ s.withRange w s.i.toNat n t = s.erred .memoryOutOfBounds w (some 0x1000)) := by
  have hi : max s.i.toNat 0x1000 = 0x1000 := by
    have := s.i.isLt
    omega
  have h := s.withRange_cases w s.i.toNat n t
  rwa [hi] at h

/-! ### Skips and keys -/

theorem State.skipIf_eq (c : Bool) : s.skipIf c = { s with pc := if c then s.pc + 2 else s.pc } := by
  cases c <;> rfl

/-- A newly pressed key is down now and up in the baseline, and no lower-numbered key is (44_input_timers R196). -/
theorem newlyPressed_eq_some (keys baseline : Word16) (k : Nat) :
    newlyPressed keys baseline = some k ↔
      k < 16 ∧ keys.getLsbD k = true ∧ baseline.getLsbD k = false ∧
      ∀ j < k, keys.getLsbD j = true → baseline.getLsbD j = true := by
  rw [newlyPressed, List.find?_range_eq_some]
  simp only [Bool.and_eq_true, List.mem_range, Bool.not_eq_eq_eq_not, Bool.and_eq_false_imp,
    Bool.not_false, Bool.not_true]
  tauto

theorem newlyPressed_eq_none (keys baseline : Word16) :
    newlyPressed keys baseline = none ↔ ∀ k < 16, keys.getLsbD k = true → baseline.getLsbD k = true := by
  simp [newlyPressed]

/-! ### The display -/

/-- Flipping a cell changes that cell alone. -/
theorem Display.cell_flip (d : Display) (x cx : Fin 64) (y cy : Fin 32) :
    Display.cell (Display.flip d x y) cx cy = if cx = x ∧ cy = y then !Display.cell d cx cy else Display.cell d cx cy := by
  by_cases hy : y.val = cy.val
  · have hy' : y = cy := Fin.ext hy
    subst hy'
    simp only [Display.cell, Display.flip, Vector.getElem_set_self, BitVec.getLsbD_xor, BitVec.getLsbD_twoPow, and_true]
    have hx : x.val = cx.val ↔ cx = x := by rw [Fin.ext_iff, eq_comm]
    by_cases h : cx = x
    · subst h; simp
    · have : ¬(x.val = cx.val) := fun e => h (hx.mp e)
      simp [h, this]
  · have : ¬(cx = x ∧ cy = y) := fun h => hy (congrArg Fin.val h.2).symm
    simp only [Display.cell, Display.flip, this, if_false]
    rw [Vector.getElem_set_ne _ _ hy]

/-- Flipping a list of distinct cells flips exactly those cells, and reports whether one of them was set
(43_display R173: each cell is flipped at most once). -/
theorem flipCells_spec (l : List (Fin 64 × Fin 32)) : ∀ (d : Display) (hit : Bool), l.Nodup →
    (∀ cx cy, Display.cell (flipCells d hit l).1 cx cy = (Display.cell d cx cy ^^ decide ((cx, cy) ∈ l))) ∧
    ((flipCells d hit l).2 = true ↔ hit = true ∨ ∃ c ∈ l, Display.cell d c.1 c.2 = true) := by
  induction l with
  | nil => intro d hit _; simp [flipCells]
  | cons e rest ih =>
    intro d hit hn
    obtain ⟨x, y⟩ := e
    rw [List.nodup_cons] at hn
    obtain ⟨h1, h2⟩ := ih (Display.flip d x y) (hit || Display.cell d x y) hn.2
    refine ⟨fun cx cy => ?_, ?_⟩
    · simp only [flipCells]
      rw [h1, Display.cell_flip]
      by_cases he : cx = x ∧ cy = y
      · obtain ⟨rfl, rfl⟩ := he
        simp [hn.1]
      · have : (cx, cy) ≠ (x, y) := fun h => he (by simpa using h)
        simp [he]
    · simp only [flipCells]
      rw [h2, Bool.or_eq_true, or_assoc]
      refine or_congr_right ?_
      simp only [List.mem_cons, exists_eq_or_imp]
      refine or_congr_right (exists_congr fun c => and_congr_right fun hc => ?_)
      have : ¬(c.1 = x ∧ c.2 = y) := fun h => hn.1 (by rw [← h.1, ← h.2]; exact hc)
      rw [Display.cell_flip, if_neg this]

end Sys2Proof.Machine
end

