-- ==== Sys2Proof/Laws/PerInstr.lean ====
section
/-! SUPPORT. Statements about every instruction as syntax, one lemma per constructor. -/

namespace Sys2Proof.Laws.EncodesItsRow

/-- The row of spec/opcode_table.json that bears the instruction's mnemonic covers the instruction's word: every fixed bit
of the row stands in the word (30_encoding R75, R82). -/
def Statement (i : Instr) : Prop :=
  ∃ row ∈ opcodeTable, row.mnemonic = i.mnemonic ∧ encodeWord i &&& row.mask = row.pat

/-- A mask that leaves the NNN bits out sees only the op. -/
theorem formatNnn_and (o : Nibble) (nnn : Word12) : formatNnn o nnn &&& 0xF000 = formatNnn o 0 := by
  refine BitVec.eq_of_getLsbD_eq fun k hk => ?_
  rw [BitVec.getLsbD_and, getLsbD_formatNnn, getLsbD_formatNnn]
  interval_cases k <;> simp

/-- A mask that leaves X and NN out sees only the op. -/
theorem formatXnn_and (o : Nibble) (x : Reg) (nn : Byte) : formatXnn o x nn &&& 0xF000 = formatXnn o 0 0 := by
  refine BitVec.eq_of_getLsbD_eq fun k hk => ?_
  rw [BitVec.getLsbD_and, getLsbD_formatXnn, getLsbD_formatXnn]
  interval_cases k <;> simp [Reg.bits]

/-- A mask that leaves X out sees the op and the low byte. -/
theorem formatX_and (o : Nibble) (x : Reg) (ss : Byte) : formatXnn o x ss &&& 0xF0FF = formatXnn o 0 ss := by
  refine BitVec.eq_of_getLsbD_eq fun k hk => ?_
  rw [BitVec.getLsbD_and, getLsbD_formatXnn, getLsbD_formatXnn]
  interval_cases k <;> simp [Reg.bits]

/-- A mask that leaves X and Y out sees the op and the low nibble. -/
theorem formatXy_and (o : Nibble) (x y : Reg) (n : Nibble) : formatXyn o x y n &&& 0xF00F = formatXyn o 0 0 n := by
  refine BitVec.eq_of_getLsbD_eq fun k hk => ?_
  rw [BitVec.getLsbD_and, getLsbD_formatXyn, getLsbD_formatXyn]
  interval_cases k <;> simp [Reg.bits]

/-- A mask that leaves X, Y and N out sees only the op. -/
theorem formatXyn_and (o : Nibble) (x y : Reg) (n : Nibble) : formatXyn o x y n &&& 0xF000 = formatXyn o 0 0 0 := by
  refine BitVec.eq_of_getLsbD_eq fun k hk => ?_
  rw [BitVec.getLsbD_and, getLsbD_formatXyn, getLsbD_formatXyn]
  interval_cases k <;> simp [Reg.bits]

theorem cls : Statement .cls := ⟨⟨"CLS", 0x00E0, 0xFFFF⟩, by decide, rfl, by decide⟩

theorem ret : Statement .ret := ⟨⟨"RET", 0x00EE, 0xFFFF⟩, by decide, rfl, by decide⟩

theorem jp (nnn : Word12) : Statement (.jp nnn) :=
  ⟨⟨"JP", 0x1000, 0xF000⟩, by decide, rfl, by rw [encodeWord, formatNnn_and]; decide⟩

theorem call (nnn : Word12) : Statement (.call nnn) :=
  ⟨⟨"CALL", 0x2000, 0xF000⟩, by decide, rfl, by rw [encodeWord, formatNnn_and]; decide⟩

theorem seImm (x : Reg) (nn : Byte) : Statement (.seImm x nn) :=
  ⟨⟨"SE_IMM", 0x3000, 0xF000⟩, by decide, rfl, by rw [encodeWord, formatXnn_and]; decide⟩

theorem sneImm (x : Reg) (nn : Byte) : Statement (.sneImm x nn) :=
  ⟨⟨"SNE_IMM", 0x4000, 0xF000⟩, by decide, rfl, by rw [encodeWord, formatXnn_and]; decide⟩

theorem seReg (x y : Reg) : Statement (.seReg x y) :=
  ⟨⟨"SE_REG", 0x5000, 0xF00F⟩, by decide, rfl, by rw [encodeWord, formatXy_and]; decide⟩

theorem ldImm (x : Reg) (nn : Byte) : Statement (.ldImm x nn) :=
  ⟨⟨"LD_IMM", 0x6000, 0xF000⟩, by decide, rfl, by rw [encodeWord, formatXnn_and]; decide⟩

theorem addImm (x : Reg) (nn : Byte) : Statement (.addImm x nn) :=
  ⟨⟨"ADD_IMM", 0x7000, 0xF000⟩, by decide, rfl, by rw [encodeWord, formatXnn_and]; decide⟩

theorem ldReg (x y : Reg) : Statement (.ldReg x y) :=
  ⟨⟨"LD_REG", 0x8000, 0xF00F⟩, by decide, rfl, by rw [encodeWord, formatXy_and]; decide⟩

theorem orReg (x y : Reg) : Statement (.orReg x y) :=
  ⟨⟨"OR", 0x8001, 0xF00F⟩, by decide, rfl, by rw [encodeWord, formatXy_and]; decide⟩

theorem andReg (x y : Reg) : Statement (.andReg x y) :=
  ⟨⟨"AND", 0x8002, 0xF00F⟩, by decide, rfl, by rw [encodeWord, formatXy_and]; decide⟩

theorem xorReg (x y : Reg) : Statement (.xorReg x y) :=
  ⟨⟨"XOR", 0x8003, 0xF00F⟩, by decide, rfl, by rw [encodeWord, formatXy_and]; decide⟩

theorem addReg (x y : Reg) : Statement (.addReg x y) :=
  ⟨⟨"ADD_REG", 0x8004, 0xF00F⟩, by decide, rfl, by rw [encodeWord, formatXy_and]; decide⟩

theorem sub (x y : Reg) : Statement (.sub x y) :=
  ⟨⟨"SUB", 0x8005, 0xF00F⟩, by decide, rfl, by rw [encodeWord, formatXy_and]; decide⟩

theorem shr (x y : Reg) : Statement (.shr x y) :=
  ⟨⟨"SHR", 0x8006, 0xF00F⟩, by decide, rfl, by rw [encodeWord, formatXy_and]; decide⟩

theorem subn (x y : Reg) : Statement (.subn x y) :=
  ⟨⟨"SUBN", 0x8007, 0xF00F⟩, by decide, rfl, by rw [encodeWord, formatXy_and]; decide⟩

theorem shl (x y : Reg) : Statement (.shl x y) :=
  ⟨⟨"SHL", 0x800E, 0xF00F⟩, by decide, rfl, by rw [encodeWord, formatXy_and]; decide⟩

theorem sneReg (x y : Reg) : Statement (.sneReg x y) :=
  ⟨⟨"SNE_REG", 0x9000, 0xF00F⟩, by decide, rfl, by rw [encodeWord, formatXy_and]; decide⟩

theorem ldI (nnn : Word12) : Statement (.ldI nnn) :=
  ⟨⟨"LD_I", 0xA000, 0xF000⟩, by decide, rfl, by rw [encodeWord, formatNnn_and]; decide⟩

theorem jpV0 (nnn : Word12) : Statement (.jpV0 nnn) :=
  ⟨⟨"JP_V0", 0xB000, 0xF000⟩, by decide, rfl, by rw [encodeWord, formatNnn_and]; decide⟩

theorem rnd (x : Reg) (nn : Byte) : Statement (.rnd x nn) :=
  ⟨⟨"RND", 0xC000, 0xF000⟩, by decide, rfl, by rw [encodeWord, formatXnn_and]; decide⟩

theorem drw (x y : Reg) (n : Nibble) : Statement (.drw x y n) :=
  ⟨⟨"DRW", 0xD000, 0xF000⟩, by decide, rfl, by rw [encodeWord, formatXyn_and]; decide⟩

theorem skp (x : Reg) : Statement (.skp x) :=
  ⟨⟨"SKP", 0xE09E, 0xF0FF⟩, by decide, rfl, by rw [encodeWord, formatX_and]; decide⟩

theorem sknp (x : Reg) : Statement (.sknp x) :=
  ⟨⟨"SKNP", 0xE0A1, 0xF0FF⟩, by decide, rfl, by rw [encodeWord, formatX_and]; decide⟩

theorem ldVxDt (x : Reg) : Statement (.ldVxDt x) :=
  ⟨⟨"LD_VX_DT", 0xF007, 0xF0FF⟩, by decide, rfl, by rw [encodeWord, formatX_and]; decide⟩

theorem ldVxK (x : Reg) : Statement (.ldVxK x) :=
  ⟨⟨"LD_VX_K", 0xF00A, 0xF0FF⟩, by decide, rfl, by rw [encodeWord, formatX_and]; decide⟩

theorem ldDtVx (x : Reg) : Statement (.ldDtVx x) :=
  ⟨⟨"LD_DT_VX", 0xF015, 0xF0FF⟩, by decide, rfl, by rw [encodeWord, formatX_and]; decide⟩

theorem ldStVx (x : Reg) : Statement (.ldStVx x) :=
  ⟨⟨"LD_ST_VX", 0xF018, 0xF0FF⟩, by decide, rfl, by rw [encodeWord, formatX_and]; decide⟩

theorem addIVx (x : Reg) : Statement (.addIVx x) :=
  ⟨⟨"ADD_I_VX", 0xF01E, 0xF0FF⟩, by decide, rfl, by rw [encodeWord, formatX_and]; decide⟩

theorem ldFVx (x : Reg) : Statement (.ldFVx x) :=
  ⟨⟨"LD_F_VX", 0xF029, 0xF0FF⟩, by decide, rfl, by rw [encodeWord, formatX_and]; decide⟩

theorem ldBVx (x : Reg) : Statement (.ldBVx x) :=
  ⟨⟨"LD_B_VX", 0xF033, 0xF0FF⟩, by decide, rfl, by rw [encodeWord, formatX_and]; decide⟩

theorem ldMemVx (x : Reg) : Statement (.ldMemVx x) :=
  ⟨⟨"LD_MEM_VX", 0xF055, 0xF0FF⟩, by decide, rfl, by rw [encodeWord, formatX_and]; decide⟩

theorem ldVxMem (x : Reg) : Statement (.ldVxMem x) :=
  ⟨⟨"LD_VX_MEM", 0xF065, 0xF0FF⟩, by decide, rfl, by rw [encodeWord, formatX_and]; decide⟩

end Sys2Proof.Laws.EncodesItsRow
end

