-- ==== Sys2Proof/Laws/Sprites.lean ====
section
/-! SUPPORT. The cells of a sprite: which cells they are, and that no two 1-bits of one sprite share a cell (spec
43_display R173: the 8 columns are distinct mod 64, the rows distinct mod 32). -/

namespace Sys2Proof.Machine

theorem mem_rowCells (x0 y0 r : Nat) (row : Byte) (cx : Fin 64) (cy : Fin 32) :
    (cx, cy) ∈ rowCells x0 y0 r row ↔
      ∃ c < 8, spriteBit row c = true ∧ (x0 + c) % 64 = cx.val ∧ (y0 + r) % 32 = cy.val := by
  simp only [rowCells, List.mem_map, List.mem_filter, List.mem_range, Prod.mk.injEq, spriteCol, spriteRow, Fin.ext_iff,
    and_assoc]

theorem mem_spriteCells (x0 y0 : Nat) (rows : List Byte) : ∀ (r : Nat) (cx : Fin 64) (cy : Fin 32),
    (cx, cy) ∈ spriteCells x0 y0 r rows ↔
      ∃ j, ∃ h : j < rows.length, ∃ c < 8, spriteBit rows[j] c = true ∧ (x0 + c) % 64 = cx.val ∧
        (y0 + (r + j)) % 32 = cy.val := by
  induction rows with
  | nil => intro r cx cy; simp [spriteCells]
  | cons row rest ih =>
    intro r cx cy
    rw [spriteCells, List.mem_append, mem_rowCells, ih]
    constructor
    · rintro (⟨c, hc, h⟩ | ⟨j, hj, c, hc, h1, h2, h3⟩)
      · exact ⟨0, by simp, c, hc, by simpa using h⟩
      · exact ⟨j + 1, by simpa using hj, c, hc, by simpa using h1, h2, by rwa [show r + (j + 1) = r + 1 + j by omega]⟩
    · rintro ⟨j, hj, c, hc, h1, h2, h3⟩
      cases j with
      | zero => exact .inl ⟨c, hc, by simpa using h1, h2, by simpa using h3⟩
      | succ j =>
        exact .inr ⟨j, by simpa using hj, c, hc, by simpa using h1, h2, by
          rwa [show r + 1 + j = r + (j + 1) by omega]⟩

theorem rowCells_nodup (x0 y0 r : Nat) (row : Byte) : (rowCells x0 y0 r row).Nodup := by
  refine List.Nodup.map_on ?_ (List.nodup_range.filter _)
  intro c hc d hd h
  simp only [List.mem_filter, List.mem_range] at hc hd
  simp only [Prod.mk.injEq, spriteCol, Fin.mk.injEq] at h
  omega

/-- The cells of a sprite of at most 32 rows are distinct. -/
theorem spriteCells_nodup (x0 y0 : Nat) (rows : List Byte) : ∀ r, r + rows.length ≤ 32 →
    (spriteCells x0 y0 r rows).Nodup := by
  induction rows with
  | nil => intro r _; exact List.nodup_nil
  | cons row rest ih =>
    intro r hr
    simp only [List.length_cons] at hr
    rw [spriteCells, List.nodup_append]
    refine ⟨rowCells_nodup .., ih _ (by omega), ?_⟩
    rintro ⟨cx, cy⟩ h1 ⟨dx, dy⟩ h2 heq
    cases heq
    obtain ⟨c, -, -, -, h1⟩ := (mem_rowCells ..).mp h1
    obtain ⟨j, hj, d, -, -, -, h2⟩ := (mem_spriteCells ..).mp h2
    omega

end Sys2Proof.Machine
end

