-- ==== Sys2Proof/Laws/Step.lean ====
section
/-! SUPPORT. What a cycle and a step can do, said once: the inversion lemmas that claims about all runs are proved from. -/

namespace Sys2Proof.Machine

variable (s t : State) (input : CycleInput)

theorem State.beginCycle_eq : s.beginCycle input = s.latched input := rfl

theorem State.beginCycle_advancePc : (s.beginCycle input).advancePc = s.handed input := rfl

@[simp] theorem State.handed_pc : (s.handed input).pc = s.pc + 2 := rfl

@[simp] theorem State.handed_input : (s.handed input).input = input := rfl

/-- A cycle that answers a next state ran with no error recorded, and did one of three things (30_encoding R80, R81, R83). -/
theorem cycle_cases (h : cycle input s = .next t) :
    s.err = none ∧
    ((0x1000 < s.pc.toNat + 2 ∧ t = (s.latched input).fetchError (max s.pc.toNat 0x1000)) ∨
     (s.pc.toNat + 2 ≤ 0x1000 ∧ ∃ i, decodeWord s.fetchWord = some i ∧ exec i (s.handed input) = .next t) ∨
     (s.pc.toNat + 2 ≤ 0x1000 ∧ decodeWord s.fetchWord = none ∧ t = (s.handed input).unknownOutcome s.fetchWord)) := by
  unfold cycle at h
  split at h
  · cases h
  next herr =>
    refine ⟨herr, ?_⟩
    split at h
    next addr hr =>
      obtain ⟨rfl, -, hlt⟩ := (checkRange_eq_some _ _ _).mp hr
      cases h
      exact .inl ⟨hlt, rfl⟩
    next hr =>
      have hle : s.pc.toNat + 2 ≤ 0x1000 := by
        rcases (checkRange_eq_none _ _).mp hr with h0 | h1
        · omega
        · exact h1
      split at h
      next i hi => exact .inr (.inl ⟨hle, i, hi, h⟩)
      next hn => cases h; exact .inr (.inr ⟨hle, hn, rfl⟩)

/-- A cycle with an error recorded is no step (30_encoding R85). -/
theorem cycle_of_err (e : ErrRecord) (he : s.err = some e) : cycle input s = .fault .stoppedOnError := by
  unfold cycle
  rw [he]

/-- A cycle whose fetch leaves memory (30_encoding R81). -/
theorem cycle_of_fetch_out (he : s.err = none) (hp : 0x1000 < s.pc.toNat + 2) :
    cycle input s = .next ((s.latched input).fetchError (max s.pc.toNat 0x1000)) := by
  unfold cycle
  rw [he, (checkRange_eq_some _ _ _).mpr ⟨rfl, by omega, hp⟩]
  rfl

/-- A cycle whose word is an instruction (30_encoding R80). -/
theorem cycle_of_instr (i : Instr) (he : s.err = none) (hp : s.pc.toNat + 2 ≤ 0x1000)
    (hd : decodeWord s.fetchWord = some i) : cycle input s = exec i (s.handed input) := by
  unfold cycle
  simp only [he, (checkRange_eq_none _ _).mpr (.inr hp), hd]
  rfl

/-- A cycle whose word is unknown (30_encoding R83). -/
theorem cycle_of_unknown (he : s.err = none) (hp : s.pc.toNat + 2 ≤ 0x1000) (hd : decodeWord s.fetchWord = none) :
    cycle input s = .next ((s.handed input).unknownOutcome s.fetchWord) := by
  unfold cycle
  simp only [he, (checkRange_eq_none _ _).mpr (.inr hp), hd]
  rfl

/-- What `UnknownOutcome` can be (30_encoding R83). -/
theorem State.unknownOutcome_cases (w : Word16) :
    (s.params.policy = .fatal ∧ s.unknownOutcome w = s.erred .unknownOpcode w none) ∨
    (s.params.policy = .ignore ∧ s.unknownOutcome w = s) := by
  unfold State.unknownOutcome
  cases s.params.policy
  · exact .inl ⟨rfl, rfl⟩
  · exact .inr ⟨rfl, rfl⟩

/-- Whose turn it is, by what State says of the host (60_exceptions R238), and all that taking the turn changes. -/
theorem State.takeHostStep_cases :
    (∃ h rest, s.schedule = h :: rest ∧ s.takeHostStep = (h, s.setSchedule rest)) ∨
    (s.schedule = [] ∧ ∃ h rest, s.standing = h :: rest ∧ s.takeHostStep = (h, s.setSchedule rest)) ∨
    (s.schedule = [] ∧ s.standing = [] ∧
      s.takeHostStep = (Config.freeHostStep s.freeIndex, s.setFreeIndex (s.freeIndex + 1))) := by
  unfold State.takeHostStep
  split
  next h rest hs => exact .inl ⟨h, rest, hs, rfl⟩
  next hs =>
    split
    next h rest hst => exact .inr (.inl ⟨hs, h, rest, hst, rfl⟩)
    next hst => exact .inr (.inr ⟨hs, hst, rfl⟩)

/-- Taking a turn changes the schedule and the count of free values alone. -/
theorem State.HostNext.frame {s : State} {h : HostStep} {s0 : State} (hn : s.HostNext h s0) :
    ∃ l n, s0 = { s with schedule := l, freeIndex := n } := by
  have hn : s.takeHostStep = (h, s0) := hn
  rcases s.takeHostStep_cases with ⟨_, _, _, e⟩ | ⟨_, _, _, _, e⟩ | ⟨_, _, e⟩ <;>
    (rw [hn] at e; cases e; exact ⟨_, _, rfl⟩)

/-- When a host step comes next, the step is that host step. -/
theorem step_of_hostNext (h : HostStep) (s0 : State) (hn : s.HostNext h s0) : step s = hostStep h s0 := by
  unfold step machineStep
  rw [show s.takeHostStep = (h, s0) from hn]

/-- When the next step is a cycle, the step is that cycle. -/
theorem step_of_cycleNext (s0 : State) (h : s.CycleNext input s0) : step s = cycle input s0 :=
  step_of_hostNext s (.cycle input) s0 h

/-- A step is a cycle, or one of the host's other operations, on the state with the turn taken (60_exceptions R238). -/
theorem step_cases (h : step s = .next t) :
    ∃ s0,
      (∃ input, s.CycleNext input s0 ∧ cycle input s0 = .next t) ∨
      (∃ p, s.HostNext (.reset p) s0 ∧ p.wellFormed = true ∧ t = s0.resetOp p) ∨
      (∃ bytes, s.HostNext (.loadRom bytes) s0 ∧ s0.fresh = true ∧ t = s0.loadRom bytes) ∨
      (s.HostNext .tick s0 ∧ t = s0.tick) ∨
      ((s.HostNext .read s0 ∨ s.HostNext .stop s0) ∧ t = s0) := by
  obtain ⟨op, s0, hn⟩ : ∃ op s0, s.HostNext op s0 := ⟨_, _, rfl⟩
  rw [step_of_hostNext s op s0 hn] at h
  refine ⟨s0, ?_⟩
  cases op with
  | reset p =>
    simp only [hostStep] at h
    split at h
    next hp => cases h; exact .inr (.inl ⟨p, hn, hp, rfl⟩)
    · cases h
  | loadRom bytes =>
    simp only [hostStep] at h
    split at h
    next hf => cases h; exact .inr (.inr (.inl ⟨bytes, hn, hf, rfl⟩))
    · cases h
  | cycle input => exact .inl ⟨input, hn, h⟩
  | tick => cases h; exact .inr (.inr (.inr (.inl ⟨hn, rfl⟩)))
  | read => cases h; exact .inr (.inr (.inr (.inr ⟨.inl hn, rfl⟩)))
  | stop => cases h; exact .inr (.inr (.inr (.inr ⟨.inr hn, rfl⟩)))

end Sys2Proof.Machine
end

