-- ==== Sys2Proof/Tests/Slice0.lean ====
section
/-! SUPPORT. The model's own tests: words written out from the encodings of spec/30_encoding.md R73 and opcode_table.json,
one-step tests whose ids are those of spec/95_test_vectors.md, and a witness for the hypotheses of every obligation. -/

namespace Sys2Proof.Tests

open Sys2Proof.Machine

/-! ### Words, each written out by hand from its row's encoding -/

theorem test_decode_control_flow :
    decodeWord 0x00EE = some .ret ∧ decodeWord 0x1ABC = some (.jp 0xABC) ∧ decodeWord 0x2400 = some (.call 0x400) ∧
    decodeWord 0x3142 = some (.seImm 1 0x42) ∧ decodeWord 0x4143 = some (.sneImm 1 0x43) ∧
    decodeWord 0x5230 = some (.seReg 2 3) ∧ decodeWord 0x9AB0 = some (.sneReg 10 11) ∧
    decodeWord 0xBFFE = some (.jpV0 0xFFE) := by decide

theorem test_decode_alu :
    decodeWord 0x6AFF = some (.ldImm 10 0xFF) ∧ decodeWord 0x7102 = some (.addImm 1 2) ∧
    decodeWord 0x8120 = some (.ldReg 1 2) ∧ decodeWord 0x8121 = some (.orReg 1 2) ∧
    decodeWord 0x8122 = some (.andReg 1 2) ∧ decodeWord 0x8123 = some (.xorReg 1 2) ∧
    decodeWord 0x8F14 = some (.addReg 15 1) ∧ decodeWord 0x81F5 = some (.sub 1 15) ∧
    decodeWord 0x8126 = some (.shr 1 2) ∧ decodeWord 0x8127 = some (.subn 1 2) ∧
    decodeWord 0x812E = some (.shl 1 2) ∧ decodeWord 0xC10F = some (.rnd 1 0x0F) := by decide

theorem test_decode_index_display_input :
    decodeWord 0xA123 = some (.ldI 0x123) ∧ decodeWord 0xF11E = some (.addIVx 1) ∧
    decodeWord 0xF129 = some (.ldFVx 1) ∧ decodeWord 0xF133 = some (.ldBVx 1) ∧
    decodeWord 0xF255 = some (.ldMemVx 2) ∧ decodeWord 0xFE65 = some (.ldVxMem 14) ∧
    decodeWord 0x00E0 = some .cls ∧ decodeWord 0xD12F = some (.drw 1 2 15) ∧
    decodeWord 0xE19E = some (.skp 1) ∧ decodeWord 0xE2A1 = some (.sknp 2) ∧
    decodeWord 0xF307 = some (.ldVxDt 3) ∧ decodeWord 0xF20A = some (.ldVxK 2) ∧
    decodeWord 0xF315 = some (.ldDtVx 3) ∧ decodeWord 0xF418 = some (.ldStVx 4) := by decide

/-- CY4, CY6, CY7, CY8 (R76): words that name no instruction. -/
theorem test_decode_rejects :
    decodeWord 0x0123 = none ∧ decodeWord 0x5121 = none ∧ decodeWord 0x01E0 = none ∧ decodeWord 0x0FEE = none ∧
    decodeWord 0x8008 = none ∧ decodeWord 0x800F = none ∧ decodeWord 0xE09F = none ∧ decodeWord 0xF000 = none ∧
    decodeWord 0xF0FF = none ∧ decodeWord 0x9121 = none ∧ decodeWord 0x0000 = none := by decide

/-- R70, R55: two bytes, the high one first; a single byte is no word. -/
theorem test_decode_bytes :
    decode [0x80, 0x14, 0x77] = .instr (.addReg 0 1) [0x77] ∧ decodeTableWord 16 0xD125 = some (.drw 1 2 5) ∧
    decodeTableWord 16 0x01E0 = none ∧ (encode (.drw 1 2 5) = [0xD1, 0x25]) := by decide

/-! ### Well-formedness: a smoke test for each check that an ill-formed term can be written for -/

/-- R6: a stack depth of 0 is refused; 1 is not. -/
theorem test_stack_depth_check :
    Params.stackDepthOk { Params.default with stackDepth := 0 } = false ∧
    Params.wellFormed { Params.default with stackDepth := 0 } = false ∧
    Params.wellFormed { Params.default with stackDepth := 1 } = true := by decide

/-- R6: a font that ends above 0x200 is refused; one that ends there is not. -/
theorem test_font_base_check :
    Params.fontBaseOk { Params.default with fontBase := 0x1B1 } = false ∧
    Params.wellFormed { Params.default with fontBase := 0x1B1 } = false ∧
    Params.wellFormed { Params.default with fontBase := 0x1B0 } = true := by decide

/-- R21: the register check holds of every register name, the last one too; number 16 has no term of type Reg. -/
theorem test_register_check : Reg.wellFormed 15 = true ∧ (Instr.addReg 15 15).wellFormed = true := by decide

/-! ### One-step tests

`run s keys rnd w` is the state after one step from `s` with the word `w` placed at pc and these inputs of the cycle. -/

def run (s : State) (keys : Word16) (rnd : Byte) (w : Nat) : Option State :=
  match step ((s.setSchedule [.cycle { keys := keys, rnd := rnd }]).withFetchWord 16 w) with
  | .next t => some t
  | _ => none

/-- The reset state with two registers set. -/
def regs (a : Reg) (va : Byte) (b : Reg) (vb : Byte) : State := (State.reset.setV a va).setV b vb

/-- The reset state with I and some bytes stored from an address up. -/
def bytesAt (i : Word12) (base : Nat) (bytes : List Byte) : State := (State.reset.setI i).storeBytes base bytes

/-- The recorded error, not one of an oversized ROM. -/
def errIs (s : State) (kind : ErrKind) (pc : Word16) (opcode : Option Word16) (addr : Option Nat) : Bool :=
  decide (s.err = some { kind := kind, pc := pc, opcode := opcode, addr := addr, len := none })

/-- CF1, CF2. -/
theorem test_ret :
    (run ((State.reset.setPc 0x400).setStack [0x202]) 0 0 0x00EE).map (fun t => (t.pc, t.stack)) = some (0x202, []) ∧
    (run State.reset 0 0 0x00EE).map (fun t => (errIs t .stackUnderflow 0x200 (some 0x00EE) none, t.pc)) =
      some (true, 0x200) := by decide

/-- CF3. -/
theorem test_jp : (run State.reset 0 0 0x1ABC).map (fun t => t.pc) = some 0xABC := by decide

/-- CF6, CF6b: a full stack, and one entry below. -/
theorem test_call :
    (run (State.reset.setStack (List.replicate 16 0x300)) 0 0 0x2400).map
      (fun t => (errIs t .stackOverflow 0x200 (some 0x2400) none, t.pc, t.stack.length)) = some (true, 0x200, 16) ∧
    (run (State.reset.setStack (List.replicate 15 0x300)) 0 0 0x2400).map (fun t => (t.pc, t.stack.getLast?)) =
      some (0x400, some 0x202) := by decide

/-- CF8, CF8b, CF15. -/
theorem test_se_imm :
    (run (regs 1 0x42 15 1) 0 0 0x3142).map (fun t => t.pc) = some 0x204 ∧
    (run (regs 1 0x42 15 1) 0 0 0x3143).map (fun t => t.pc) = some 0x202 ∧
    (run (regs 1 0x42 15 1) 0 0 0x3F01).map (fun t => t.pc) = some 0x204 := by decide

/-- CF9, CF9b. -/
theorem test_sne_imm :
    (run (regs 1 0x42 2 0) 0 0 0x4143).map (fun t => t.pc) = some 0x204 ∧
    (run (regs 1 0x42 2 0) 0 0 0x4142).map (fun t => t.pc) = some 0x202 := by decide

/-- CF10, CF10b. -/
theorem test_se_reg :
    (run (regs 2 7 3 7) 0 0 0x5230).map (fun t => t.pc) = some 0x204 ∧
    (run (regs 2 7 3 8) 0 0 0x5230).map (fun t => t.pc) = some 0x202 := by decide

/-- CF11, CF11b. -/
theorem test_sne_reg :
    (run (regs 2 7 3 8) 0 0 0x9230).map (fun t => t.pc) = some 0x204 ∧
    (run (regs 2 7 3 7) 0 0 0x9230).map (fun t => t.pc) = some 0x202 := by decide

/-- CF12b: the sum is not wrapped to 12 bits. -/
theorem test_jp_v0 : (run (regs 0 0xFF 1 0) 0 0 0xBFFF).map (fun t => t.pc) = some 0x10FE := by decide

/-- A1. -/
theorem test_ld_imm : (run State.reset 0 0 0x6AFF).map (fun t => (t.getV 10, t.pc)) = some (0xFF, 0x202) := by decide

/-- A2: the wrap leaves VF alone. -/
theorem test_add_imm :
    (run (regs 1 0xFF 15 0x55) 0 0 0x7102).map (fun t => (t.getV 1, t.getV 15)) = some (1, 0x55) := by decide

/-- A3. -/
theorem test_ld_reg : (run (regs 2 0x33 1 0) 0 0 0x8120).map (fun t => t.getV 1) = some 0x33 := by decide

/-- A9 (without its VF). -/
theorem test_or : (run (regs 1 0xF0 2 0x0F) 0 0 0x8121).map (fun t => (t.getV 1, t.getV 2)) = some (0xFF, 0x0F) := by
  decide

/-- A10 (without its VF). -/
theorem test_and : (run (regs 1 0xF0 2 0x3C) 0 0 0x8122).map (fun t => t.getV 1) = some 0x30 := by decide

/-- A11. -/
theorem test_xor : (run (regs 1 0xF0 2 0x3C) 0 0 0x8123).map (fun t => t.getV 1) = some 0xCC := by decide

/-- A4d, A4e: X = F, the flag replaces the result; Y = F, the old VF is the operand. -/
theorem test_add_reg :
    (run (regs 15 0x01 1 0x01) 0 0 0x8F14).map (fun t => t.getV 15) = some 0 ∧
    (run (regs 1 0x10 15 0xF0) 0 0 0x81F4).map (fun t => (t.getV 1, t.getV 15)) = some (0, 1) := by decide

/-- A5b, A5c: a borrow; equal operands. -/
theorem test_sub :
    (run (regs 1 3 2 5) 0 0 0x8125).map (fun t => (t.getV 1, t.getV 15)) = some (0xFE, 0) ∧
    (run (regs 1 7 2 7) 0 0 0x8125).map (fun t => (t.getV 1, t.getV 15)) = some (0, 1) := by decide

/-- A6, A6d. -/
theorem test_shr :
    (run (regs 1 5 2 0xFF) 0 0 0x8126).map (fun t => (t.getV 1, t.getV 2, t.getV 15)) = some (2, 0xFF, 1) ∧
    (run (regs 15 2 0 0) 0 0 0x8F06).map (fun t => t.getV 15) = some 0 := by decide

/-- A7, A7b. -/
theorem test_subn :
    (run (regs 1 3 2 5) 0 0 0x8127).map (fun t => (t.getV 1, t.getV 15)) = some (2, 1) ∧
    (run (regs 1 5 2 3) 0 0 0x8127).map (fun t => (t.getV 1, t.getV 15)) = some (0xFE, 0) := by decide

/-- A8, A8d. -/
theorem test_shl :
    (run (regs 1 0x81 2 0) 0 0 0x812E).map (fun t => (t.getV 1, t.getV 15)) = some (2, 1) ∧
    (run (regs 15 0x7F 0 0) 0 0 0x8F0E).map (fun t => t.getV 15) = some 0 := by decide

/-- A12. -/
theorem test_rnd : (run State.reset 0 0xA5 0xC10F).map (fun t => t.getV 1) = some 0x05 := by decide

/-- M1. -/
theorem test_ld_i : (run State.reset 0 0 0xA123).map (fun t => t.i) = some 0x123 := by decide

/-- M2b, M2c: the 12-bit wrap, VF not written. -/
theorem test_add_i_vx :
    (run ((regs 1 1 15 0).setI 0xFFF) 0 0 0xF11E).map (fun t => (t.i, t.getV 15)) = some (0, 0) ∧
    (run ((regs 1 0xFF 15 0).setI 0xF80) 0 0 0xF11E).map (fun t => t.i) = some 0x07F := by decide

/-- M3, M3e: a glyph, and a value above 15. -/
theorem test_ld_f_vx :
    (run (regs 1 0x0F 2 0) 0 0 0xF129).map (fun t => t.i) = some 0x09B ∧
    (run (regs 1 0xFF 2 0) 0 0 0xF129).map (fun t => t.i) = some 0x54B := by decide

/-- M4f, M4g: the last three bytes of memory, and one further. -/
theorem test_ld_b_vx :
    (run ((regs 1 0x80 2 0).setI 0xFFD) 0 0 0xF133).map (fun t => (t.loadBytes 0xFFD 3, t.i)) =
      some ([1, 2, 8], 0xFFD) ∧
    (run (((regs 1 0x80 2 0).setI 0xFFE).storeBytes 0xFFE [7, 9]) 0 0 0xF133).map
      (fun t => (errIs t .memoryOutOfBounds 0x200 (some 0xF133) (some 0x1000), t.loadBytes 0xFFE 2)) =
      some (true, [7, 9]) := by decide

/-- M5, M5c (W6). -/
theorem test_ld_mem_vx :
    (run (((regs 1 2 2 3).setV 0 1).setI 0x300) 0 0 0xF255).map (fun t => (t.loadBytes 0x300 4, t.i)) =
      some ([1, 2, 3, 0], 0x300) ∧
    (run ((regs 0 5 1 6).setI 0xFFF) 0 0 0xF155).map
      (fun t => (errIs t .memoryOutOfBounds 0x200 (some 0xF155) (some 0x1000), t.mem)) = some (true, [(0x200, 0xF1), (0x201, 0x55)]) := by decide

/-- M6, M6c. -/
theorem test_ld_vx_mem :
    (run (bytesAt 0x300 0x300 [1, 2, 8, 9]) 0 0 0xF265).map
      (fun t => (t.getV 0, t.getV 1, t.getV 2, t.getV 3, t.i)) = some (1, 2, 8, 0, 0x300) ∧
    (run ((regs 0 5 1 6).setI 0xFFF) 0 0 0xF165).map
      (fun t => (errIs t .memoryOutOfBounds 0x200 (some 0xF165) (some 0x1000), t.getV 0, t.getV 1)) = some (true, 5, 6) := by decide

/-- The rows of the display that are not empty. -/
def rowsOf (s : State) : List (Nat × BitVec 64) :=
  (List.range 32).filterMap fun y => let r := s.disp.toList.getD y 0; if r == 0 then none else some (y, r)

/-- D1. -/
theorem test_cls :
    (run ((regs 15 0x42 0 0).setDisp (Vector.replicate 32 0x81)) 0 0 0x00E0).map
      (fun t => (rowsOf t, t.getV 15, t.drew)) = some ([], 0x42, true) := by decide

/-- D4, D5: wrap at the right edge and at the bottom edge. -/
theorem test_drw_wraps :
    (run ((bytesAt 0x300 0x300 [0xFF]).setV 0 60) 0 0 0xD011).map (fun t => (rowsOf t, t.getV 15)) =
      some ([(0, 0xF00000000000000F)], 0) ∧
    (run ((bytesAt 0x300 0x300 [0x80, 0x80]).setV 1 31) 0 0 0xD012).map (fun t => (rowsOf t, t.drew)) =
      some ([(0, 1), (31, 1)], true) := by decide

/-- D9 and D10: a collision; x taken from VF before VF is written. -/
theorem test_drw_flag :
    (run ((bytesAt 0x300 0x300 [0x80]).setDisp (Display.flip Display.clear 0 0)) 0 0 0xD121).map
      (fun t => (rowsOf t, t.getV 15)) = some ([], 1) ∧
    (run ((bytesAt 0x300 0x300 [0x80]).setV 15 3) 0 0 0xDF11).map (fun t => (rowsOf t, t.getV 15)) =
      some ([(0, 8)], 0) := by decide

/-- K1, K3. -/
theorem test_skp :
    (run (regs 1 5 2 0) 0x0020 0 0xE19E).map (fun t => t.pc) = some 0x204 ∧
    (run (regs 1 0x15 2 0) 0xFFFF 0 0xE19E).map (fun t => t.pc) = some 0x202 := by decide

/-- K2b, K3b. -/
theorem test_sknp :
    (run (regs 1 5 2 0) 0x0020 0 0xE1A1).map (fun t => t.pc) = some 0x202 ∧
    (run (regs 1 0x15 2 0) 0xFFFF 0 0xE1A1).map (fun t => t.pc) = some 0x204 := by decide

/-- K4. -/
theorem test_ld_vx_dt : (run (State.reset.setDt 0x3C) 0 0 0xF307).map (fun t => t.getV 3) = some 0x3C := by decide

/-- K5. -/
theorem test_ld_dt_vx : (run (regs 3 0x3C 1 0) 0 0 0xF315).map (fun t => (t.dt, t.st)) = some (0x3C, 0) := by decide

/-- K6. -/
theorem test_ld_st_vx : (run (regs 4 2 1 0) 0 0 0xF418).map (fun t => (t.dt, t.st)) = some (0, 2) := by decide

/-- K7g, K7f: the first presentation never resolves; a held key is no new press. -/
theorem test_ld_vx_k :
    (run State.reset 0xFFFF 0 0xF20A).map (fun t => (t.wait, t.pc)) = some (some 0xFFFF, 0x200) ∧
    (run (State.reset.setWait (some 0x0001)) 0x0009 0 0xF20A).map (fun t => (t.getV 2, t.wait, t.pc)) =
      some (3, none, 0x202) := by decide

/-- CY2, CY3, CF12b: a fetch whose first, or only second, byte is beyond memory. -/
theorem test_fetch_out_of_bounds :
    (run (State.reset.setPc 0xFFF) 0 0 0).map (fun t => (errIs t .memoryOutOfBounds 0xFFF none (some 0x1000), t.pc)) =
      some (true, 0xFFF) ∧
    (run (State.reset.setPc 0x10FE) 0 0 0).map (fun t => (errIs t .memoryOutOfBounds 0x10FE none (some 0x10FE), t.pc)) =
      some (true, 0x10FE) := by decide

/-- CY4, CY5. -/
theorem test_unknown_opcode_policy :
    (run State.reset 0 0 0x0123).map (fun t => (errIs t .unknownOpcode 0x200 (some 0x0123) none, t.pc)) =
      some (true, 0x200) ∧
    (run (State.resetWith { Params.default with policy := .ignore }) 0 0 0x0123).map
      (fun t => (t.err.isSome, t.pc)) = some (false, 0x202) := by decide

/-- H1, H1b. -/
theorem test_tick :
    ((((State.reset.setDt 0x3C).setSt 5).tick).dt, (((State.reset.setDt 0x3C).setSt 5).tick).st) = (0x3B, 4) ∧
    (((State.reset.setDt 1).tick).dt, ((State.reset.setDt 1).tick).st) = (0, 0) := by decide

/-- H3 (R36, R41): the first and the last glyph, and the bytes around the font. -/
theorem test_reset_memory :
    State.reset.loadBytes 0x04F 6 = [0, 0xF0, 0x90, 0x90, 0x90, 0xF0] ∧
    State.reset.loadBytes 0x09B 6 = [0xF0, 0x80, 0xF0, 0x80, 0x80, 0] ∧
    State.reset.mem = [] ∧ Memory.wf State.reset.params State.reset.mem := by decide

/-- P1's bytes at 0x200 (R253), and the canonical form: a zero byte is not listed. -/
theorem test_load_rom :
    (State.reset.loadRom [0x60, 0x00, 0x61]).mem = [(0x200, 0x60), (0x202, 0x61)] ∧
    (State.reset.loadRom [0x60, 0x00, 0x61]).err = none ∧ (State.reset.loadRom [0x60]).fresh = false := by decide

/-- The codes of R210. -/
theorem test_error_codes :
    [ErrKind.romTooLarge, .memoryOutOfBounds, .stackOverflow, .stackUnderflow, .unknownOpcode].map ErrKind.code =
      [1, 2, 3, 4, 5] := by decide

/-- R79's table: four spellings. -/
theorem test_asm :
    (Instr.drw 1 2 5).asm = "DRW V1, V2, 5" ∧ (Instr.jpV0 0x310).asm = "JP V0, 0x310" ∧
    (Instr.ldMemVx 10).asm = "LD [I], VA" ∧ (Instr.ldVxK 2).asm = "LD V2, K" := by decide

/-! ### Witnesses: for every obligation with hypotheses, a state and operands that meet them, for each clause -/

/-- A state whose next step is a cycle given by the schedule, at `pc`. -/
def scheduled (pc : Word16) : State := (State.reset.setPc pc).setSchedule [.cycle { keys := 0x20, rnd := 0xA5 }]

theorem scheduled_cycleNext (pc : Word16) :
    (scheduled pc).CycleNext { keys := 0x20, rnd := 0xA5 } (State.reset.setPc pc) := rfl

theorem test_EncodeAfterDecodeIsIdentity_witness : decode [0xD1, 0x25, 0x00] = .instr (.drw 1 2 5) [0x00] := by decide

/-- A cycle next by the schedule and by the standing order; the last address a word can be fetched from, and an odd one. -/
theorem test_StepRunsDecodedInstruction_witness :
    (∃ s s0 input, State.CycleNext s input s0 ∧ s.err = none ∧ s.pc.toNat + 1 = 0xFFF ∧
      decode [s.readByte s.pc.toNat, s.readByte (s.pc.toNat + 1)] = .instr (.ldImm 10 1) []) ∧
    (∃ s s0 input, State.CycleNext s input s0 ∧ s.err = none ∧ s.pc.toNat = 0x201 ∧
      decode [s.readByte s.pc.toNat, s.readByte (s.pc.toNat + 1)] = .instr (.ldImm 0 5) []) :=
  ⟨⟨(scheduled 0xFFE).storeBytes 0xFFE [0x6A, 0x01], _, _, rfl, by decide, by decide, by decide⟩,
    ⟨((State.reset.setPc 0x201).storeBytes 0x201 [0x60, 0x05]).setStanding [.cycle { keys := 0, rnd := 0 }], _, _, rfl,
      by decide, by decide, by decide⟩⟩

theorem test_FetchBeyondMemoryRecordsError_witness :
    (∃ s s0 input, State.CycleNext s input s0 ∧ s.err = none ∧ s.pc.toNat = 0xFFF) ∧
    (∃ s s0 input, State.CycleNext s input s0 ∧ s.err = none ∧ s.pc.toNat = 0x1000) :=
  ⟨⟨_, _, _, scheduled_cycleNext 0xFFF, by decide, by decide⟩, ⟨_, _, _, scheduled_cycleNext 0x1000, by decide, by decide⟩⟩

/-- Word 0x0000 at 0x200, under either policy. -/
theorem unknownWord_witness (policy : UnknownOpcodePolicy) :
    ∃ s s0 input, State.CycleNext s input s0 ∧ s.err = none ∧ s.pc.toNat + 1 ≤ 0xFFF ∧
      (0 : Word16).toNat = 256 * (s.readByte s.pc.toNat).toNat + (s.readByte (s.pc.toNat + 1)).toNat ∧
      decodeWord 0 = none ∧ s.params.policy = policy :=
  ⟨(State.resetWith { Params.default with policy := policy }).setSchedule [.cycle { keys := 0, rnd := 0 }], _, _, rfl, rfl, by cases policy <;> decide,
    by cases policy <;> decide, by decide, rfl⟩

theorem test_UnknownWordFollowsPolicy_witness :
    (∃ s s0 input, State.CycleNext s input s0 ∧ s.err = none ∧ s.pc.toNat + 1 ≤ 0xFFF ∧
      (0 : Word16).toNat = 256 * (s.readByte s.pc.toNat).toNat + (s.readByte (s.pc.toNat + 1)).toNat ∧
      decodeWord 0 = none ∧ s.params.policy = .fatal) ∧
    ∃ s s0 input, State.CycleNext s input s0 ∧ s.err = none ∧ s.pc.toNat + 1 ≤ 0xFFF ∧
      (0 : Word16).toNat = 256 * (s.readByte s.pc.toNat).toNat + (s.readByte (s.pc.toNat + 1)).toNat ∧
      decodeWord 0 = none ∧ s.params.policy = .ignore :=
  ⟨unknownWord_witness .fatal, unknownWord_witness .ignore⟩

/-- A state with an error recorded, as CF2 leaves it, and some host steps to come. -/
def stopped (l : List HostStep) : State := (State.reset.erred .stackUnderflow 0x00EE none).setSchedule l

theorem test_RecordedErrorStopsTheCore_witness :
    (∀ l, (stopped l).err ≠ none) ∧ (∃ input s0, (stopped [.cycle { keys := 0, rnd := 0 }]).CycleNext input s0) ∧
    (∃ t, step (stopped [.tick]) = .next t) ∧ ∃ t, step (stopped [.reset Params.default]) = .next t :=
  ⟨fun _ => nofun, ⟨_, _, rfl⟩, ⟨_, rfl⟩, ⟨_, rfl⟩⟩

/-- The error record after a step. -/
def errAfter (s : State) : Option ErrRecord :=
  match step s with
  | .next t => t.err
  | _ => none

theorem next_of_errAfter {s : State} {e : ErrRecord} (h : errAfter s = some e) :
    ∃ t, step s = .next t ∧ t.err = some e := by
  unfold errAfter at h
  split at h
  next t ht => exact ⟨t, ht, h⟩
  · cases h

/-- The step answers a next state. -/
def goesOn (s : State) : Bool :=
  match step s with
  | .next _ => true
  | _ => false

theorem next_of_goesOn {s : State} (h : goesOn s = true) : ∃ t, step s = .next t := by
  unfold goesOn at h
  split at h
  next t ht => exact ⟨t, ht⟩
  · cases h

/-- With an opcode recorded (an unknown word), and without one (a fetch beyond memory). -/
theorem test_ErrorLeavesStateAsBeforeCycle_witness :
    (∃ s s0 input e, State.CycleNext s input s0 ∧ s.err = none ∧ (∃ t, step s = .next t ∧ t.err = some e) ∧
      e.opcode = some 0) ∧
    (∃ s s0 input e, State.CycleNext s input s0 ∧ s.err = none ∧ (∃ t, step s = .next t ∧ t.err = some e) ∧
      e.opcode = none) :=
  ⟨⟨_, _, _, { kind := .unknownOpcode, pc := 0x200, opcode := some 0, addr := none, len := none },
      scheduled_cycleNext 0x200, rfl, next_of_errAfter (by decide), rfl⟩,
    ⟨_, _, _, { kind := .memoryOutOfBounds, pc := 0xFFF, opcode := none, addr := some 0x1000, len := none },
      scheduled_cycleNext 0xFFF, rfl, next_of_errAfter (by decide), rfl⟩⟩

/-- An invariant state that is not the reset state: FX0A at 0x200, waiting, with a cycle to come. -/
def waitingState : State :=
  { State.reset with
    mem := [(0x200, 0xF2), (0x201, 0x0A)], wait := some 0, fresh := false
    schedule := [.cycle { keys := 1, rnd := 0 }] }

theorem test_StepKeepsMachineInvariant_witness : waitingState.Inv ∧ ∃ t, step waitingState = .next t :=
  ⟨{ params_wf := by decide, pc_le := by decide, stack_length := by decide, stack_entries := nofun
     mem_wf := by decide
     waiting := fun _ _ => ⟨rfl, by decide, .ldVxK 2, by decide, rfl⟩
     error_record := nofun, fresh_start := nofun }, next_of_goesOn (by decide)⟩

theorem test_ResetEstablishesMachineInvariant_witness : Params.default.wellFormed = true := by decide

theorem test_OnlyResetChangesParameters_witness :
    (∃ t, step (State.reset.setSchedule [.tick]) = .next t) ∧
    ∃ t, step (State.reset.setSchedule [.reset { Params.default with stackDepth := 4 }]) = .next t :=
  ⟨⟨_, rfl⟩, ⟨_, rfl⟩⟩

/-- One step by each writer that changes the display. -/
theorem test_DisplayWrittenOnlyByClsDrwReset_witness :
    (run ((bytesAt 0x050 0 []).setDisp (Vector.replicate 32 1)) 0 0 0x00E0).map (fun t => decide (t.disp[0] = 1)) =
      some false ∧
    (run (bytesAt 0x050 0 []) 0 0 0xD125).map (fun t => decide (t.disp[0] = 0)) = some false ∧
    ∃ t, step ((State.reset.setDisp (Vector.replicate 32 1)).setSchedule [.reset Params.default]) = .next t ∧
      t.disp ≠ Vector.replicate 32 1 :=
  ⟨by decide, by decide, _, rfl, by decide⟩

/-- `exec` on a state, its answer read through `f`. -/
def answer {α : Type} (i : Instr) (s : State) (f : State → α) : Option α :=
  match exec i s with
  | .next t => some (f t)
  | _ => none

theorem test_MemoryWrittenOnlyByFx33AndFx55_witness :
    answer (.ldBVx 1) ((regs 1 0xFF 0 0).setI 0x300) (fun t => decide (t.mem ≠ [])) = some true ∧
    answer (.ldMemVx 1) ((regs 1 0xFF 0 0).setI 0x300) (fun t => decide (t.mem ≠ [])) = some true := by decide

theorem test_IndexWrittenOnlyByAnnnFx1eFx29_witness :
    answer (.ldI 5) State.reset (fun t => decide (t.i ≠ 0)) = some true ∧
    answer (.addIVx 1) (regs 1 5 0 0) (fun t => decide (t.i ≠ 0)) = some true ∧
    answer (.ldFVx 1) State.reset (fun t => decide (t.i ≠ 0)) = some true := by decide

theorem test_StackChangesOnlyByCallAndRet_witness :
    answer (.call 0x400) State.reset (fun t => decide (t.stack ≠ [])) = some true ∧
    answer .ret (State.reset.setStack [0x202]) (fun t => decide (t.stack ≠ [0x202])) = some true := by decide

theorem test_TimersWrittenOnlyByFx15AndFx18_witness :
    answer (.ldDtVx 1) (regs 1 5 0 0) (fun t => decide (t.dt ≠ 0)) = some true ∧
    answer (.ldStVx 1) (regs 1 5 0 0) (fun t => decide (t.st ≠ 0)) = some true := by decide

theorem test_WaitReadAndWrittenOnlyByFx0a_witness :
    (∀ x, Instr.cls ≠ .ldVxK x) ∧ ∃ t, exec .cls State.reset = .next t := ⟨by decide, _, rfl⟩

theorem test_RegistersWrittenOnlyByTheirWriters_witness :
    ¬mayWrite (.addReg 1 2) 3 ∧ ¬mayWrite (.ldVxMem 4) 5 ∧ ¬mayWrite .cls 0 ∧
    (∃ t, exec (.addReg 1 2) State.reset = .next t) ∧ ∃ t, exec (.ldVxMem 4) State.reset = .next t :=
  ⟨fun h => h.elim (by decide) (by decide), fun h : (5 : Reg) ≤ 4 => absurd h (by decide), id, ⟨_, rfl⟩, ⟨_, rfl⟩⟩

/-- Without an error and with one. -/
theorem test_PcMovesByInstructionClass_witness :
    State.reset.err = none ∧ (∃ t, exec (.jp 0x300) State.reset = .next t ∧ t.err = none) ∧
    ∃ t, exec .ret State.reset = .next t ∧ t.err ≠ none :=
  ⟨rfl, ⟨_, rfl, rfl⟩, ⟨_, rfl, by decide⟩⟩

theorem test_CycleInputsMatterOnlyToTheirReaders_witness :
    (∃ t, exec (.rnd 1 2) State.reset = .next t) ∧ (∀ x, Instr.rnd 1 2 ≠ .skp x ∧ Instr.rnd 1 2 ≠ .sknp x ∧ Instr.rnd 1 2 ≠ .ldVxK x) ∧
    (∃ t, exec (.skp 1) State.reset = .next t) ∧ ∀ x nn, Instr.skp 1 ≠ .rnd x nn :=
  ⟨⟨_, rfl⟩, fun _ => ⟨nofun, nofun, nofun⟩, ⟨_, rfl⟩, fun _ _ => nofun⟩

theorem test_RetPopsReturnAddress_witness :
    (State.reset.setStack [0x300, 0x202]).stack = [0x300] ++ [0x202] ∧ State.reset.stack = [] := ⟨rfl, rfl⟩

/-- One entry below the depth, and at it; the second covers CallThenRetComesBack's hypothesis too. -/
theorem test_CallPushesReturnAddress_witness :
    let s (n : Nat) : State := State.reset.setStack (List.replicate n 0x300)
    (s 15).stack.length < (s 15).params.stackDepth ∧ (s 16).stack.length = (s 16).params.stackDepth := by decide

theorem test_CallThenRetComesBack_witness : State.reset.stack.length < State.reset.params.stackDepth := by decide

/-- The highest admitted font base, with the highest register value. -/
theorem test_GlyphAddressIsExact_witness :
    (State.resetWith { Params.default with fontBase := 0x1B0 }).params.wellFormed = true := by decide

theorem test_BcdStoresThreeDigits_witness : (State.reset.setI 0xFFD).i.toNat + 2 ≤ 0xFFF := by decide

theorem test_RegisterDumpStoresRange_witness : (State.reset.setI 0xFF0).i.toNat + (15 : Reg).val ≤ 0xFFF := by decide

theorem test_RegisterLoadReadsRange_witness : (State.reset.setI 0xFFF).i.toNat + (0 : Reg).val ≤ 0xFFF := by decide

theorem test_RangeBeyondMemoryRaises_witness :
    (State.reset.setI 0xFFE).i.toNat + 2 > 0xFFF ∧ (State.reset.setI 0xFF1).i.toNat + (15 : Reg).val > 0xFFF ∧
    1 ≤ (3 : Nibble).toNat ∧ (State.reset.setI 0xFFE).i.toNat + (3 : Nibble).toNat - 1 > 0xFFF := by decide

/-- P6's store: V0 and V1 go to 0x208 and 0x209, which the next cycle fetches. -/
theorem test_StoredWordIsFetchedNext_witness :
    let s : State := ((regs 0 0x12 1 0x08).setI 0x208).setPc 0x208
    1 ≤ (1 : Reg).val ∧ s.i.toNat + (1 : Reg).val ≤ 0xFFF ∧ s.pc.toNat = s.i.toNat ∧
      ∃ t, exec (.ldMemVx 1) s = .next t :=
  ⟨by decide, by decide, by decide, _, rfl⟩

/-- N = 0 with I at the top, the last sprite that fits, and a cell set under the sprite and none set (both flag clauses). -/
theorem test_DrawFlipsCoveredCells_witness :
    ((0 : Nibble) = 0 ∨ (State.reset.setI 0xFFF).i.toNat + (0 : Nibble).toNat - 1 ≤ 0xFFF) ∧
    ((2 : Nibble) = 0 ∨ (State.reset.setI 0xFFE).i.toNat + (2 : Nibble).toNat - 1 ≤ 0xFFF) ∧
    (let s := (State.reset.setI 0x050).setDisp (Vector.replicate 32 1);
      ∃ cx cy, s.Covers 1 2 5 cx cy ∧ Display.cell s.disp cx cy = true) ∧
    (let s := State.reset.setI 0x050;
      ¬∃ cx cy, s.Covers 1 2 5 cx cy ∧ Display.cell s.disp cx cy = true) :=
  ⟨by decide, by decide, ⟨0, 0, ⟨0, 0, by decide, by decide, by decide, by decide, by decide⟩, by decide⟩,
    fun ⟨_, cy, _, h⟩ => by simp [Display.cell, State.reset, State.resetWith, State.setI] at h⟩

/-- Twice the glyph at I = 0x050, the second time on the state after the first with pc moved on (D2, D3). -/
theorem test_DrawingTwiceRestoresDisplay_witness :
    let s := State.reset.setI 0x050
    ((5 : Nibble) = 0 ∨ s.i.toNat + (5 : Nibble).toNat - 1 ≤ 0xFFF) ∧
    ∃ t, exec (.drw 1 2 5) s = .next t ∧
      (let u := t.setPc 0x204;
        u = { t with v := u.v, pc := u.pc, drew := u.drew } ∧ u.getV 1 = s.getV 1 ∧ u.getV 2 = s.getV 2 ∧
        ∃ w, exec (.drw 1 2 5) u = .next w) :=
  ⟨by decide, _, rfl, rfl, by decide, by decide, _, rfl⟩

theorem test_ClearThenDrawShowsSprite_witness :
    (15 : Nibble) = 0 ∨ (State.reset.setI 0xFF1).i.toNat + (15 : Nibble).toNat - 1 ≤ 0xFFF := by decide

/-- K7, K7c, and K7f with key 15 too: no baseline, no new key, and a lowest new key among several. -/
theorem test_KeyWaitResolvesOnNewPress_witness :
    let s (b : Option Word16) (keys : Word16) : State := (State.reset.setWait b).setInput { keys := keys, rnd := 0 }
    (s none 0).wait = none ∧
    ((s (some 0x0008) 0x0008).wait = some 0x0008 ∧
      ∀ k < 16, (0x0008 : Word16).getLsbD k = true → (0x0008 : Word16).getLsbD k = true) ∧
    ((s (some 0x0001) 0x8009).wait = some 0x0001 ∧ (0x8009 : Word16).getLsbD 3 = true ∧
      (0x0001 : Word16).getLsbD 3 = false ∧
      ∀ j < 3, (0x8009 : Word16).getLsbD j = true → (0x0001 : Word16).getLsbD j = true) :=
  ⟨rfl, ⟨rfl, fun _ _ h => h⟩, rfl, by decide, by decide, by decide⟩

/-- While waiting, and after an error (H1c). -/
theorem test_TickCountsBothTimersDown_witness :
    (∃ s0, ((State.reset.setWait (some 0)).setSchedule [.tick]).HostNext .tick s0) ∧
    (∃ s0, (stopped [.tick]).HostNext .tick s0) ∧ (stopped [.tick]).err ≠ none :=
  ⟨⟨_, rfl⟩, ⟨_, rfl⟩, nofun⟩

theorem test_ResetBuildsFreshInstance_witness :
    (∃ s0, (stopped [.reset Params.default, .tick]).HostNext (.reset Params.default) s0) ∧
    Params.default.wellFormed = true ∧
    (let p := { Params.default with stackDepth := 0 };
      (∃ s0, (stopped [.reset p]).HostNext (.reset p) s0) ∧ p.wellFormed = false) :=
  ⟨⟨_, rfl⟩, by decide, ⟨_, rfl⟩, by decide⟩

/-- The last length admitted and the first one not (H2, H2b), and a machine that is not fresh. -/
theorem test_LoadRomCopiesOrRecordsTooLarge_witness :
    let s (l : Nat) (f : Bool) : State := (State.reset.setFresh f).setSchedule [.loadRom (List.replicate l 0)]
    (∀ l f, ∃ s0, (s l f).HostNext (.loadRom (List.replicate l 0)) s0) ∧
    ((s 3584 true).fresh = true ∧ (List.replicate 3584 (0 : Byte)).length ≤ 3584) ∧
    ((s 3585 true).fresh = true ∧ 3584 < (List.replicate 3585 (0 : Byte)).length) ∧ (s 1 false).fresh = false :=
  ⟨fun _ _ => ⟨_, rfl⟩, ⟨rfl, by rw [List.length_replicate]⟩, ⟨rfl, by rw [List.length_replicate]; decide⟩, rfl⟩

/-- After an error too; and a stopped machine resumed. -/
theorem test_StopAndReadChangeNothing_witness :
    (∃ s0, (stopped [.stop]).HostNext .stop s0) ∧ (∃ s0, (stopped [.read]).HostNext .read s0) ∧
    (State.reset.setSchedule [.stop, .cycle { keys := 1, rnd := 2 }]).schedule =
      .stop :: .cycle { keys := 1, rnd := 2 } :: [] :=
  ⟨⟨_, rfl⟩, ⟨_, rfl⟩, rfl⟩

/-- An instruction's step and a host operation's step that go on; the reset state, whose order is free. -/
theorem test_HostOrderIsFollowed_witness :
    (∃ h s0, waitingState.HostNext h s0 ∧ ∃ t, step waitingState = .next t) ∧
    (∃ h s0, (stopped [.tick]).HostNext h s0 ∧ ∃ t, step (stopped [.tick]) = .next t) ∧
    State.reset.schedule = [] ∧ State.reset.standing = [] :=
  ⟨⟨_, _, rfl, next_of_goesOn (by decide)⟩, ⟨_, _, rfl, _, rfl⟩, rfl, rfl⟩

/-- Cycles and ticks for ever, and a host that calls no Cycle again (R235, R238): the first eight turns of each. -/
theorem test_standing_order :
    let turns (l : List HostStep) : List HostStep :=
      (List.range 8).map fun n => (State.afterTurns n (State.reset.setStanding l)).takeHostStep.1
    let c : HostStep := .cycle { keys := 0, rnd := 0 }
    turns [c, .tick] = [c, .tick, c, .tick, c, .tick, c, .tick] ∧ turns [.stop] = List.replicate 8 .stop := by decide

theorem test_StandingOrderComesOverAndOver_witness :
    let s := State.reset.setStanding [.cycle { keys := 0, rnd := 0 }, .tick]
    s.schedule = [] ∧ s.standing ≠ [] := by decide

end Sys2Proof.Tests
end

/-! ### 00_scope: the parameters of an instance (R6) -/

namespace Sys2Proof.Machine

/-- `t` is `s` but for the fields an instruction may write: the record of 10_state R20 and the output `drew` (30_encoding
R86). The model's fields `params`, `schedule`, `standing`, `freeIndex`, `input` and `fresh` are not among them. -/
def State.RecordUpdate (s t : State) : Prop :=
  t = { s with
    v := t.v, pc := t.pc, i := t.i, stack := t.stack, dt := t.dt, st := t.st, mem := t.mem, disp := t.disp,
    wait := t.wait, err := t.err, drew := t.drew }

theorem State.RecordUpdate.params_eq {s t : State} (h : s.RecordUpdate t) : t.params = s.params :=
  (congrArg State.params (h : t = _) :)

theorem State.recordUpdate_setVs (s : State) (k : Nat) (l : List Byte) : s.RecordUpdate (s.setVs k l) := by
  rw [State.setVs_eq]
  rfl

theorem State.recordUpdate_storeBytes (s : State) (a : Nat) (l : List Byte) : s.RecordUpdate (s.storeBytes a l) := by
  rw [State.storeBytes_eq]
  rfl

theorem State.recordUpdate_withRange {s t : State} (h : s.RecordUpdate t) (w : Word16) (base n : Nat) :
    s.RecordUpdate (s.withRange w base n t) := by
  obtain ⟨-, e⟩ | ⟨-, e⟩ := s.withRange_cases w base n t
  · rwa [e]
  · rw [e]
    rfl

theorem State.recordUpdate_unknownOutcome (s : State) (w : Word16) : s.RecordUpdate (s.unknownOutcome w) := by
  obtain ⟨-, e⟩ | ⟨-, e⟩ := s.unknownOutcome_cases w <;> rw [e] <;> rfl

/-- Every instruction answers a next state, and writes no field outside `RecordUpdate`. -/
theorem exec_recordUpdate (i : Instr) (s : State) : ∃ t, exec i s = .next t ∧ s.RecordUpdate t := by
  cases i with
  | ret =>
    rw [exec_ret, execRet]
    split <;> exact ⟨_, rfl, rfl⟩
  | call nnn =>
    rw [exec_call, execCall]
    split <;> exact ⟨_, rfl, rfl⟩
  | ldVxK x =>
    rw [exec_ldVxK, execLdVxK]
    split
    · exact ⟨_, rfl, rfl⟩
    · split <;> exact ⟨_, rfl, rfl⟩
  | drw x y n => exact ⟨_, rfl, State.recordUpdate_withRange (by rfl) ..⟩
  | ldBVx x => exact ⟨_, rfl, State.recordUpdate_withRange (s.recordUpdate_storeBytes ..) ..⟩
  | ldMemVx x => exact ⟨_, rfl, State.recordUpdate_withRange (s.recordUpdate_storeBytes ..) ..⟩
  | ldVxMem x => exact ⟨_, rfl, State.recordUpdate_withRange (s.recordUpdate_setVs ..) ..⟩
  | _ => exact ⟨_, rfl, rfl⟩

theorem recordUpdate_of_exec {i : Instr} {s t : State} (h : exec i s = .next t) : s.RecordUpdate t := by
  obtain ⟨t', he, hu⟩ := exec_recordUpdate i s
  cases he.symm.trans h
  exact hu

/-- A cycle latches its inputs and then updates the record alone; the advance of `pc` is part of that update. -/
theorem recordUpdate_of_cycle {input : CycleInput} {s t : State} (h : cycle input s = .next t) :
    (s.latched input).RecordUpdate t := by
  obtain ⟨-, ⟨-, rfl⟩ | ⟨-, i, -, hex⟩ | ⟨-, -, rfl⟩⟩ := cycle_cases s t input h
  · rfl
  · exact (recordUpdate_of_exec hex : (s.handed input).RecordUpdate t)
  · exact (s.handed input).recordUpdate_unknownOutcome s.fetchWord

theorem State.HostNext.params_eq {s s0 : State} {h : HostStep} (hn : s.HostNext h s0) : s0.params = s.params := by
  obtain ⟨l, n, rfl⟩ := hn.frame
  rfl

theorem State.loadRom_params (s : State) (bytes : List Byte) : (s.loadRom bytes).params = s.params := by
  unfold State.loadRom
  split
  · rfl
  · exact ((s.setFresh false).recordUpdate_storeBytes ..).params_eq

/-- Settles O14: by the kind of the step; taking the turn keeps the parameters, and so does every operation but Reset. -/
theorem onlyResetChangesParameters : Obligations.OnlyResetChangesParameters := by
  intro s t h
  obtain ⟨s0, ⟨input, hn, hc⟩ | ⟨p, hn, -, rfl⟩ | ⟨bytes, hn, -, rfl⟩ | ⟨hn, rfl⟩ | ⟨hn | hn, rfl⟩⟩ := step_cases s t h
  · exact .inl ((recordUpdate_of_cycle hc).params_eq.trans hn.params_eq)
  · exact .inr ⟨p, s0, hn, rfl⟩
  · exact .inl ((s0.loadRom_params bytes).trans hn.params_eq)
  · exact .inl hn.params_eq
  · exact .inl hn.params_eq
  · exact .inl hn.params_eq

end Sys2Proof.Machine

/-! ### 10_state: what one instruction may write (R22 to R31)

An instruction ends in one of two ways: it raises one of the errors of 60_exceptions R211 to R213, and then only `pc` and
`err` differ, or it completes. The statements about writers follow from this by cases on the instruction. -/

namespace Sys2Proof.Machine

/-- The instruction raises this error in `s` (60_exceptions R211 to R213), with this address in its record. I is in memory,
so a range from I that leaves memory has a byte, and its lowest address outside is 0x1000. -/
inductive Raises (s : State) : Instr → ErrKind → Option Nat → Prop
  | ret (h : s.stack = []) : Raises s .ret .stackUnderflow none
  | call (nnn : Word12) (h : s.params.stackDepth ≤ s.stack.length) : Raises s (.call nnn) .stackOverflow none
  | drw (x y : Reg) (n : Nibble) (h : 0x1000 < s.i.toNat + n.toNat) :
      Raises s (.drw x y n) .memoryOutOfBounds (some 0x1000)
  | ldBVx (x : Reg) (h : 0x1000 < s.i.toNat + 3) : Raises s (.ldBVx x) .memoryOutOfBounds (some 0x1000)
  | ldMemVx (x : Reg) (h : 0x1000 < s.i.toNat + regCount x) : Raises s (.ldMemVx x) .memoryOutOfBounds (some 0x1000)
  | ldVxMem (x : Reg) (h : 0x1000 < s.i.toNat + regCount x) : Raises s (.ldVxMem x) .memoryOutOfBounds (some 0x1000)

/-- The next state of an instruction that raises no error. An instruction that cannot raise one and has a single course
does what `exec` says. -/
def Completes (i : Instr) (s t : State) : Prop :=
  match i with
  | .ret => ∃ rest a, s.stack = rest ++ [a] ∧ t = { s with pc := a, stack := rest }
  | .call nnn => t = s.pushPc.setPc (addrOfNnn nnn)
  | .drw x y n => t = s.drawSprite x y n.toNat
  | .ldBVx x => t = { s with mem := (s.storeBytes s.i.toNat (decimalDigits (s.getV x))).mem }
  | .ldMemVx x => t = { s with mem := (s.storeBytes s.i.toNat (s.regsUpTo x)).mem }
  | .ldVxMem x => t = { s with v := (s.setVs 0 (s.loadBytes s.i.toNat (regCount x))).v }
  | .ldVxK x =>
    (t = s.keepWaiting ∧ ∀ b, s.wait = some b → newlyPressed s.input.keys b = none) ∨
    ∃ b k, s.wait = some b ∧ newlyPressed s.input.keys b = some k ∧ t = (s.setV x (BitVec.ofNat 8 k)).setWait none
  | _ => exec i s = .next t

variable {i : Instr} {s t u : State}

/-- A guarded access from I that answers `t` raised, or its range is in memory and `t` is its effect. -/
theorem State.next_withIndexRange {w : Word16} {n : Nat}
    (h : (.next (s.withRange w s.i.toNat n u) : Host.Outcome State Fault Refusal) = .next t) :
    (0x1000 < s.i.toNat + n ∧ t = s.erred .memoryOutOfBounds w (some 0x1000)) ∨
    (¬0x1000 < s.i.toNat + n ∧ t = u) := by
  have hi := s.i.isLt
  cases h
  obtain ⟨hn, e⟩ | ⟨⟨-, hlt⟩, e⟩ := s.withIndexRange_cases w n u
  · exact .inr ⟨by omega, e⟩
  · exact .inl ⟨hlt, e⟩

theorem execRet_cases (h : execRet s = .next t) :
    (s.stack = [] ∧ t = s.erred .stackUnderflow (encodeWord .ret) none) ∨
    (s.stack ≠ [] ∧ Completes .ret s t) := by
  unfold execRet at h
  split at h
  next hs => cases h; exact .inl ⟨List.getLast?_eq_none_iff.mp hs, rfl⟩
  next a hs =>
    cases h
    obtain ⟨rest, hrest⟩ := List.getLast?_eq_some_iff.mp hs
    exact .inr ⟨by simp [hrest], rest, a, hrest, by rw [hrest, List.dropLast_concat]; rfl⟩

theorem execLdVxK_completes {x : Reg} (h : execLdVxK x s = .next t) : Completes (.ldVxK x) s t := by
  unfold execLdVxK at h
  split at h
  next hw => cases h; exact .inl ⟨rfl, by simp [hw]⟩
  next b hw =>
    split at h
    next hk => cases h; exact .inl ⟨rfl, by simp [hw, hk]⟩
    next k hk => cases h; exact .inr ⟨b, k, hw, hk, rfl⟩

/-- The two ways an instruction ends; it completes exactly when there is no error to raise. -/
theorem exec_cases (h : exec i s = .next t) :
    (∃ kind addr, Raises s i kind addr ∧ t = s.erred kind (encodeWord i) addr) ∨
    ((∀ kind addr, ¬Raises s i kind addr) ∧ Completes i s t) := by
  cases i with
  | ret =>
    obtain ⟨hs, e⟩ | ⟨hs, hc⟩ := execRet_cases h
    · exact .inl ⟨_, _, .ret hs, e⟩
    · exact .inr ⟨by rintro _ _ ⟨⟩; contradiction, hc⟩
  | call nnn =>
    rw [exec_call, execCall] at h
    split at h
    next hd => cases h; exact .inl ⟨_, _, .call nnn hd, rfl⟩
    next hd => cases h; exact .inr ⟨by rintro _ _ ⟨⟩; contradiction, rfl⟩
  | drw x y n =>
    obtain ⟨hr, e⟩ | ⟨hr, e⟩ := State.next_withIndexRange h
    · exact .inl ⟨_, _, .drw x y n hr, e⟩
    · exact .inr ⟨by rintro _ _ ⟨⟩; contradiction, e⟩
  | ldBVx x =>
    obtain ⟨hr, e⟩ | ⟨hr, e⟩ := State.next_withIndexRange h
    · exact .inl ⟨_, _, .ldBVx x hr, e⟩
    · exact .inr ⟨by rintro _ _ ⟨⟩; contradiction, e.trans (State.storeBytes_eq ..)⟩
  | ldMemVx x =>
    obtain ⟨hr, e⟩ | ⟨hr, e⟩ := State.next_withIndexRange h
    · exact .inl ⟨_, _, .ldMemVx x hr, e⟩
    · exact .inr ⟨by rintro _ _ ⟨⟩; contradiction, e.trans (State.storeBytes_eq ..)⟩
  | ldVxMem x =>
    obtain ⟨hr, e⟩ | ⟨hr, e⟩ := State.next_withIndexRange h
    · exact .inl ⟨_, _, .ldVxMem x hr, e⟩
    · exact .inr ⟨by rintro _ _ ⟨⟩; contradiction, e.trans (State.setVs_eq ..)⟩
  | ldVxK x => exact .inr ⟨nofun, execLdVxK_completes h⟩
  | _ => exact .inr ⟨nofun, h⟩

/-! #### The writers of each field -/

/-- Settles O17: an error leaves I alone, and so does every completed instruction that is not one of the three. -/
theorem indexWrittenOnlyByAnnnFx1eFx29 : Obligations.IndexWrittenOnlyByAnnnFx1eFx29 := by
  intro i s t h hne
  obtain ⟨_, _, -, rfl⟩ | ⟨-, hc⟩ := exec_cases h
  · exact absurd rfl hne
  cases i with
  | ldI nnn => exact .inl ⟨nnn, rfl⟩
  | addIVx x => exact .inr ⟨x, .inl rfl⟩
  | ldFVx x => exact .inr ⟨x, .inr rfl⟩
  | ret => obtain ⟨_, _, -, rfl⟩ := hc; exact absurd rfl hne
  | ldVxK x => obtain ⟨rfl, -⟩ | ⟨_, _, -, -, rfl⟩ := hc <;> exact absurd rfl hne
  | _ => cases hc; exact absurd rfl hne

/-- Settles O18: a completed CALL is the push, a completed RET the pop; everything else leaves the stack alone. -/
theorem stackChangesOnlyByCallAndRet : Obligations.StackChangesOnlyByCallAndRet := by
  intro i s t h hne
  obtain ⟨_, _, -, rfl⟩ | ⟨-, hc⟩ := exec_cases h
  · exact absurd rfl hne
  cases i with
  | call nnn => cases hc; exact .inl ⟨nnn, rfl, rfl⟩
  | ret => obtain ⟨_, _, hs, rfl⟩ := hc; exact .inr ⟨rfl, hs⟩
  | ldVxK x => obtain ⟨rfl, -⟩ | ⟨_, _, -, -, rfl⟩ := hc <;> exact absurd rfl hne
  | _ => cases hc; exact absurd rfl hne

/-- Settles O19: every completed instruction but FX15 and FX18 leaves both timers alone, and each of these the other's. -/
theorem timersWrittenOnlyByFx15AndFx18 : Obligations.TimersWrittenOnlyByFx15AndFx18 := by
  intro i s t h
  obtain ⟨_, _, -, rfl⟩ | ⟨-, hc⟩ := exec_cases h
  · exact ⟨absurd rfl, absurd rfl⟩
  cases i with
  | ldDtVx x => cases hc; exact ⟨fun _ => ⟨x, rfl⟩, absurd rfl⟩
  | ldStVx x => cases hc; exact ⟨absurd rfl, fun _ => ⟨x, rfl⟩⟩
  | ret => obtain ⟨_, _, -, rfl⟩ := hc; exact ⟨absurd rfl, absurd rfl⟩
  | ldVxK x => obtain ⟨rfl, -⟩ | ⟨_, _, -, -, rfl⟩ := hc <;> exact ⟨absurd rfl, absurd rfl⟩
  | _ => cases hc; exact ⟨absurd rfl, absurd rfl⟩

/-! #### The awaiting-input state -/

/-- Only FX0A writes `wait`. -/
theorem Completes.wait_eq (hc : Completes i s t) (hi : isKeyWait i = false) : t.wait = s.wait := by
  cases i with
  | ldVxK x => cases hi
  | ret => obtain ⟨_, _, -, rfl⟩ := hc; rfl
  | _ => cases hc; rfl

/-- A store commutes with every change of the state that a single write commutes with. -/
theorem State.storeBytes_comm {f : State → State} (hf : ∀ s a b, (f s).writeByte a b = f (s.writeByte a b))
    (l : List Byte) : ∀ (s : State) (a : Nat), (f s).storeBytes a l = f (s.storeBytes a l) := by
  induction l with
  | nil => intro s a; rfl
  | cons b rest ih => intro s a; rw [State.storeBytes, hf, ih]; rfl

/-- A load into registers commutes with every change of the state that a single register write commutes with. -/
theorem State.setVs_comm {f : State → State} (hf : ∀ s r b, (f s).setV r b = f (s.setV r b)) (l : List Byte) :
    ∀ (s : State) (k : Nat), (f s).setVs k l = f (s.setVs k l) := by
  induction l with
  | nil => intro s k; rfl
  | cons b rest ih =>
    intro s k
    simp only [State.setVs]
    split
    · rw [hf, ih]
    · rw [ih]

/-- A guarded access commutes with every change of the state that its effect and the recording of an error commute with. -/
theorem State.withRange_comm {f : State → State} (hf : ∀ s kind w addr, (f s).raise kind w addr = f (s.raise kind w addr))
    (w : Word16) (base n : Nat) : (f s).withRange w base n (f t) = f (s.withRange w base n t) := by
  unfold State.withRange
  split
  · rfl
  · exact hf ..

/-- An instruction other than FX0A does the same whatever `wait` holds. -/
theorem exec_setWait (b : Option Word16) (hi : ∀ x, i ≠ .ldVxK x) (h : exec i s = .next t) :
    exec i (s.setWait b) = .next (t.setWait b) := by
  have hrange (w : Word16) (base n : Nat) (t : State) :
      (s.setWait b).withRange w base n (t.setWait b) = (s.withRange w base n t).setWait b :=
    State.withRange_comm (f := (State.setWait · b)) (fun _ _ _ _ => rfl) w base n
  have hstore := State.storeBytes_comm (f := (State.setWait · b)) fun _ _ _ => rfl
  have hload := State.setVs_comm (f := (State.setWait · b)) fun _ _ _ => rfl
  cases i with
  | ldVxK x => exact absurd rfl (hi x)
  | ret =>
    simp only [exec_ret, execRet, State.setWait_stack] at h ⊢
    split at h <;> cases h <;> rfl
  | call nnn =>
    simp only [exec_call, execCall, State.setWait_stack, State.setWait_params] at h ⊢
    split at h
    next hd => cases h; exact if_pos hd
    next hd => cases h; exact if_neg hd
  | drw x y n => cases h; exact congrArg Host.Outcome.next (hrange _ _ _ (s.drawSprite x y n.toNat))
  | ldBVx x => cases h; exact congrArg Host.Outcome.next ((congrArg _ (hstore ..)).trans (hrange ..))
  | ldMemVx x => cases h; exact congrArg Host.Outcome.next ((congrArg _ (hstore ..)).trans (hrange ..))
  | ldVxMem x => cases h; exact congrArg Host.Outcome.next ((congrArg _ (hload ..)).trans (hrange ..))
  | _ => cases h; rfl

/-- Settles O20: no other instruction writes `wait` (the two ways it ends) or reads it (`exec_setWait`). -/
theorem waitReadAndWrittenOnlyByFx0a : Obligations.WaitReadAndWrittenOnlyByFx0a := by
  intro i s t b hi h
  refine ⟨?_, exec_setWait b hi h⟩
  obtain ⟨_, _, -, rfl⟩ | ⟨-, hc⟩ := exec_cases h
  · rfl
  · refine hc.wait_eq ?_
    cases i with
    | ldVxK x => exact absurd rfl (hi x)
    | _ => rfl

/-! #### The V registers -/

theorem State.getV_setV_of_ne {r x : Reg} (hr : ¬r = x) (b : Byte) : (s.setV x b).getV r = s.getV r := by
  rw [State.getV_setV, if_neg hr]

theorem State.getV_setResultFlag_of_ne {r x : Reg} (hr : ¬(r = x ∨ r = Reg.flag)) (b : Byte) (f : Bool) :
    (s.setResultFlag x b f).getV r = s.getV r := by
  obtain ⟨hx, hf⟩ := not_or.mp hr
  rw [State.getV_setResultFlag, if_neg hf, if_neg hx]

/-- Settles O21: by the instruction's class of destinations. -/
theorem registersWrittenOnlyByTheirWriters : Obligations.RegistersWrittenOnlyByTheirWriters := by
  intro i s t r h hr
  obtain ⟨_, _, -, rfl⟩ | ⟨-, hc⟩ := exec_cases h
  · rfl
  cases i with
  | ldImm x _ | addImm x _ | rnd x _ | ldVxDt x | ldReg x _ | orReg x _ | andReg x _ | xorReg x _ =>
    cases hc; exact State.getV_setV_of_ne hr _
  | addReg x _ | sub x _ | shr x _ | subn x _ | shl x _ => cases hc; exact State.getV_setResultFlag_of_ne hr _ _
  | drw x y n => cases hc; exact State.getV_setV_of_ne hr _
  | ldVxMem x =>
    have hx : ¬r.val ≤ x.val := hr
    have e : t = s.setVs 0 (s.loadBytes s.i.toNat (regCount x)) := hc.trans (State.setVs_eq ..).symm
    rw [e, State.getV_setVs, dif_neg (by rw [State.length_loadBytes, regCount]; omega)]
  | ldVxK x =>
    obtain ⟨rfl, -⟩ | ⟨_, _, -, -, rfl⟩ := hc
    · rfl
    · exact State.getV_setV_of_ne hr _
  | ret => obtain ⟨_, _, -, rfl⟩ := hc; rfl
  | _ => cases hc; rfl

/-! #### The program counter -/

theorem toNat_addrOfNnn (nnn : Word12) : (addrOfNnn nnn).toNat = nnn.toNat := by
  rw [addrOfNnn, BitVec.toNat_setWidth]
  have := nnn.isLt
  omega

theorem toNat_addrOfSum (nnn : Word12) (v0 : Byte) : (addrOfSum nnn v0).toNat = nnn.toNat + v0.toNat := by
  rw [addrOfSum, BitVec.toNat_ofNat]
  have := nnn.isLt
  have := v0.isLt
  omega

theorem State.skipIf_pc (s : State) (c : Bool) : (s.skipIf c).pc = if c then s.pc + 2 else s.pc := rfl

theorem Completes.err_eq (hc : Completes i s t) : t.err = s.err := by
  cases i with
  | ret => obtain ⟨_, _, -, rfl⟩ := hc; rfl
  | ldVxK x => obtain ⟨rfl, -⟩ | ⟨_, _, -, -, rfl⟩ := hc <;> rfl
  | _ => cases hc; rfl

/-- A completed instruction leaves pc where the class of 10_state R26 says. -/
theorem Completes.pcAfter (hc : Completes i s t) : pcAfter i s t.pc := by
  cases i with
  | ret => obtain ⟨rest, _, hs, rfl⟩ := hc; exact ⟨rest, hs⟩
  | jp nnn | call nnn => cases hc; exact toNat_addrOfNnn nnn
  | jpV0 nnn => cases hc; exact toNat_addrOfSum nnn _
  | seImm x y | seReg x y | sneImm x y | sneReg x y => cases hc; simp [Machine.pcAfter, State.skipIf_pc]
  | sknp x => cases hc; simp [Machine.pcAfter, State.skipIf_pc, ← Bool.not_eq_true, ite_not]
  | ldVxK x =>
    obtain ⟨rfl, hnone⟩ | ⟨b, k, hw, hk, rfl⟩ := hc
    · exact .inr ⟨rfl, fun b hw => (newlyPressed_eq_none ..).mp (hnone b hw)⟩
    · obtain ⟨hlt, hdown, hup, -⟩ := (newlyPressed_eq_some ..).mp hk
      exact .inl ⟨rfl, b, k, hw, hlt, hdown, hup⟩
  | _ => cases hc; rfl

/-- Settles O22: a raised error puts pc back, a completed instruction leaves it as its class says. -/
theorem pcMovesByInstructionClass : Obligations.PcMovesByInstructionClass := by
  intro i s t herr h
  obtain ⟨_, _, -, rfl⟩ | ⟨-, hc⟩ := exec_cases h
  · exact .inl ⟨nofun, rfl⟩
  · exact .inr ⟨hc.err_eq.trans herr, hc.pcAfter⟩

end Sys2Proof.Machine

/-! ### 10_state: the invariant of reachable states (R42) -/

namespace Sys2Proof.Machine

variable {i : Instr} {s s0 t : State} {input : CycleInput}

/-- With no wait and no error the invariant is what it says of the parameters, pc, the stack and memory. -/
theorem State.inv_of_idle (hw : s.wait = none) (he : s.err = none) (params_wf : s.params.wellFormed = true)
    (pc_le : s.pc.toNat ≤ 0x10FE) (stack_length : s.stack.length ≤ s.params.stackDepth)
    (stack_entries : ∀ a ∈ s.stack, a.toNat ≤ 0x1000) (mem_wf : Memory.wf s.params s.mem) : s.Inv where
  params_wf := params_wf
  pc_le := pc_le
  stack_length := stack_length
  stack_entries := stack_entries
  mem_wf := mem_wf
  waiting b hb := by rw [hw] at hb; cases hb
  error_record e h := by rw [he] at h; cases h
  fresh_start _ := ⟨he, hw⟩

/-- The timers and the host's order are not in the invariant. -/
theorem State.Inv.update (h : s.Inv) (dt st : Byte) (schedule standing : List HostStep) (n : Nat) :
    { s with dt := dt, st := st, schedule := schedule, standing := standing, freeIndex := n : State }.Inv :=
  ⟨h.params_wf, h.pc_le, h.stack_length, h.stack_entries, h.mem_wf, h.waiting, h.error_record, h.fresh_start⟩

theorem State.Inv.of_hostNext (h : s.Inv) {op : HostStep} (hn : s.HostNext op s0) : s0.Inv := by
  obtain ⟨l, n, rfl⟩ := hn.frame
  exact h.update s.dt s.st l s.standing n

/-- A machine that is not waiting may record an error at its pc (60_exceptions R216, R219). -/
theorem State.Inv.record_error (h : s.Inv) (hw : s.wait = none) {e : ErrRecord} (he : e.wf) (hpc : e.pc = s.pc)
    (input : CycleInput) (drew : Bool) :
    { s with input := input, drew := drew, fresh := false, err := some e : State }.Inv where
  params_wf := h.params_wf
  pc_le := h.pc_le
  stack_length := h.stack_length
  stack_entries := h.stack_entries
  mem_wf := h.mem_wf
  waiting b hb := nomatch hw.symm.trans hb
  error_record e' h' := by cases h'; exact ⟨he, hpc⟩
  fresh_start := nofun

/-! #### Reset and load -/

theorem State.resetWith_inv {p : Params} (hp : p.wellFormed = true) : (State.resetWith p).Inv :=
  State.inv_of_idle rfl rfl hp (by decide : (0x200 : Word16).toNat ≤ 0x10FE) (Nat.zero_le _) nofun (Memory.nil_wf p)

/-- Settles O13: every field has its reset value. -/
theorem resetEstablishesMachineInvariant : Obligations.ResetEstablishesMachineInvariant :=
  ⟨State.resetWith_inv (by decide), fun _ => State.resetWith_inv⟩

theorem State.resetOp_inv (s : State) {p : Params} (hp : p.wellFormed = true) : (s.resetOp p).Inv :=
  (State.resetWith_inv hp).update 0 0 s.schedule s.standing s.freeIndex

/-- A load is admitted on a fresh machine alone, which neither waits nor has stopped (70_reset R253). -/
theorem State.Inv.loadRom (h : s.Inv) (hf : s.fresh = true) (bytes : List Byte) : (s.loadRom bytes).Inv := by
  obtain ⟨he, hw⟩ := h.fresh_start hf
  unfold State.loadRom
  split
  next hlen =>
    refine h.record_error hw ?_ rfl s.input s.drew
    exact ⟨rfl, rfl, bytes.length, rfl, hlen⟩
  next =>
    have hmem := State.storeBytes_wf bytes (s.setFresh false) programStart h.mem_wf
    rw [State.storeBytes_eq]
    exact State.inv_of_idle hw he h.params_wf h.pc_le h.stack_length h.stack_entries hmem

/-! #### A cycle -/

theorem toNat_add_two {pc : Word16} (h : pc.toNat ≤ 0x1000) : (pc + 2).toNat = pc.toNat + 2 := by bv_omega

/-- Where a word can be fetched, the advance of pc does not wrap. -/
theorem State.toNat_handed_pc (hle : s.pc.toNat + 2 ≤ 0x1000) : (s.handed input).pc.toNat = s.pc.toNat + 2 :=
  toNat_add_two (by omega)

/-- A machine waits only where the next cycle runs FX0A. -/
theorem State.Inv.wait_eq_none (h : s.Inv)
    (hk : ¬∃ i, s.pc.toNat + 2 ≤ 0x1000 ∧ decodeWord s.fetchWord = some i ∧ isKeyWait i = true) : s.wait = none := by
  refine Option.eq_none_iff_forall_ne_some.mpr fun b hw => hk ?_
  obtain ⟨-, hle, i, hd, hi⟩ := h.waiting b hw
  exact ⟨i, by omega, hd, hi⟩

/-- An instruction that raises an error is not FX0A, and the record has the shape of its kind. -/
theorem Raises.record_wf {kind : ErrKind} {addr : Option Nat} (h : Raises s i kind addr) (pc w : Word16) :
    isKeyWait i = false ∧ ErrRecord.wf { kind := kind, pc := pc, opcode := some w, addr := addr, len := none } := by
  cases h with
  | ret | call => exact ⟨rfl, rfl, rfl, rfl⟩
  | drw | ldBVx | ldMemVx | ldVxMem => exact ⟨rfl, rfl, _, rfl, le_rfl, by decide⟩

/-- An error raised on the state a cycle hands over stands at the instruction's own pc (30_encoding R84). -/
theorem State.handed_erred (s : State) (input : CycleInput) (kind : ErrKind) (w : Word16) (addr : Option Nat) :
    (s.handed input).erred kind w addr = { s.latched input with
      err := some { kind := kind, pc := s.pc, opcode := some w, addr := addr, len := none } } := by
  have hpc : (s.handed input).pc - 2 = s.pc := BitVec.add_sub_cancel ..
  rw [State.erred, hpc]
  rfl

/-- The highest pc an instruction leaves is BNNN's (10_state R24, 40_control_flow R107). -/
theorem pcAfter_le {pc : Word16} (h : pcAfter i s pc) (h2 : 2 ≤ s.pc.toNat) (hle : s.pc.toNat ≤ 0x1000)
    (hs : ∀ a ∈ s.stack, a.toNat ≤ 0x1000) : pc.toNat ≤ 0x10FE := by
  have hskip := toNat_add_two hle
  have hback : (s.pc - 2).toNat ≤ s.pc.toNat := by bv_omega
  have hite (c : Prop) [Decidable c] : (if c then s.pc + 2 else s.pc).toNat ≤ 0x10FE := by split <;> omega
  have hite' (c : Prop) [Decidable c] : (if c then s.pc else s.pc + 2).toNat ≤ 0x10FE := by split <;> omega
  cases i with
  | seImm | seReg | skp => cases h; exact hite _
  | sneImm | sneReg | sknp => cases h; exact hite' _
  | jp nnn | call nnn =>
    have h : pc.toNat = nnn.toNat := h
    have := nnn.isLt
    omega
  | jpV0 nnn =>
    have h : pc.toNat = nnn.toNat + (s.getV 0).toNat := h
    have := nnn.isLt
    have := (s.getV 0).isLt
    omega
  | ret =>
    obtain ⟨rest, e⟩ := h
    have := hs pc (by simp [e])
    omega
  | ldVxK => obtain ⟨rfl, -⟩ | ⟨rfl, -⟩ := h <;> omega
  | _ => cases h; omega

/-- CALL pushes only where there is room, and pushes the advanced pc (40_control_flow R102); RET takes an entry off. -/
theorem Completes.stack_bounds (hc : Completes i s t) (hr : ∀ kind addr, ¬Raises s i kind addr)
    (hlen : s.stack.length ≤ s.params.stackDepth) (hpc : s.pc.toNat ≤ 0x1000) (hs : ∀ a ∈ s.stack, a.toNat ≤ 0x1000) :
    t.stack.length ≤ s.params.stackDepth ∧ ∀ a ∈ t.stack, a.toNat ≤ 0x1000 := by
  cases i with
  | call nnn =>
    have hroom : s.stack.length < s.params.stackDepth := not_le.mp fun hd => hr _ _ (.call nnn hd)
    cases hc
    simp only [State.setPc_stack, State.pushPc, State.setStack_stack, List.length_append, List.length_singleton,
      List.mem_append, List.mem_singleton]
    exact ⟨hroom, by rintro a (ha | rfl); exacts [hs a ha, hpc]⟩
  | ret =>
    obtain ⟨rest, a, e, rfl⟩ := hc
    rw [e] at hlen hs
    rw [List.length_append] at hlen
    exact ⟨by simp only; omega, fun b hb => hs b (List.mem_append_left _ hb)⟩
  | ldVxK => obtain ⟨rfl, -⟩ | ⟨_, _, -, -, rfl⟩ := hc <;> exact ⟨hlen, hs⟩
  | _ => cases hc; exact ⟨hlen, hs⟩

theorem Completes.mem_wf (hc : Completes i s t) (hm : Memory.wf s.params s.mem) : Memory.wf s.params t.mem := by
  cases i with
  | ldBVx | ldMemVx => cases hc; exact State.storeBytes_wf _ s _ hm
  | ret => obtain ⟨_, _, -, rfl⟩ := hc; exact hm
  | ldVxK => obtain ⟨rfl, -⟩ | ⟨_, _, -, -, rfl⟩ := hc <;> exact hm
  | _ => cases hc; exact hm

/-- The invariant, but for the wait, after a cycle whose instruction completes. -/
theorem State.Inv.idle_of_completes (h : s.Inv) (he : s.err = none) (hle : s.pc.toNat + 2 ≤ 0x1000)
    (hex : exec i (s.handed input) = .next t) (hc : Completes i (s.handed input) t)
    (hr : ∀ kind addr, ¬Raises (s.handed input) i kind addr) (hw : t.wait = none) : t.Inv := by
  have hpc := State.toNat_handed_pc (input := input) hle
  have hparams : t.params = s.params := (recordUpdate_of_exec hex).params_eq
  obtain ⟨hlen, hentries⟩ := hc.stack_bounds hr h.stack_length (by omega) h.stack_entries
  refine State.inv_of_idle hw (hc.err_eq.trans he) ?_ ?_ ?_ hentries ?_
  · rw [hparams]; exact h.params_wf
  · exact pcAfter_le hc.pcAfter (by omega) (by omega) h.stack_entries
  · rw [hparams]; exact hlen
  · rw [hparams]; exact hc.mem_wf h.mem_wf

/-- FX0A that goes on waiting is at its own pc again, with the same word there (44_input_timers R196). -/
theorem State.Inv.keepWaiting (h : s.Inv) (he : s.err = none) (hle : s.pc.toNat + 2 ≤ 0x1000)
    (hd : decodeWord s.fetchWord = some i) (hi : isKeyWait i = true) : (s.handed input).keepWaiting.Inv := by
  have e : (s.handed input).keepWaiting = { s.latched input with wait := some input.keys } := by
    have hpc : (s.handed input).instrAddr = s.pc := BitVec.add_sub_cancel ..
    rw [State.keepWaiting, hpc]
    rfl
  rw [e]
  exact ⟨h.params_wf, h.pc_le, h.stack_length, h.stack_entries, h.mem_wf,
    fun _ _ => ⟨he, by simp only [State.latched]; omega, i, hd, hi⟩, h.error_record, nofun⟩

/-- FX0A waits on at its own pc, or has its key and waits no more. -/
theorem Completes.keepWaiting_or_wait_eq_none (hc : Completes i s t) (hi : isKeyWait i = true) :
    t = s.keepWaiting ∨ t.wait = none := by
  cases i with
  | ldVxK x =>
    obtain ⟨e, -⟩ | ⟨_, _, -, -, rfl⟩ := hc
    · exact .inl e
    · exact .inr rfl
  | _ => cases hi

/-- An instruction's cycle keeps the invariant, whether it raises an error or completes. -/
theorem State.Inv.of_exec (h : s.Inv) (he : s.err = none) (hle : s.pc.toNat + 2 ≤ 0x1000)
    (hd : decodeWord s.fetchWord = some i) (hex : exec i (s.handed input) = .next t) : t.Inv := by
  have hidle (hi : isKeyWait i = false) : s.wait = none :=
    h.wait_eq_none fun ⟨_, _, hj, hk⟩ => by cases hd.symm.trans hj; cases hi.symm.trans hk
  obtain ⟨kind, addr, hr, rfl⟩ | ⟨hr, hc⟩ := exec_cases hex
  · obtain ⟨hi, hwf⟩ := hr.record_wf s.pc (encodeWord i)
    rw [State.handed_erred]
    exact h.record_error (hidle hi) hwf rfl input false
  · cases hi : isKeyWait i with
    | false => exact h.idle_of_completes he hle hex hc hr ((hc.wait_eq hi).trans (hidle hi))
    | true =>
      obtain rfl | hw := hc.keepWaiting_or_wait_eq_none hi
      · exact h.keepWaiting he hle hd hi
      · exact h.idle_of_completes he hle hex hc hr hw

theorem State.Inv.of_cycle (h : s.Inv) (hcyc : cycle input s = .next t) : t.Inv := by
  obtain ⟨he, ⟨hout, rfl⟩ | ⟨hle, i, hd, hex⟩ | ⟨hle, hd, rfl⟩⟩ := cycle_cases s t input hcyc
  · have hpc := h.pc_le
    refine h.record_error (h.wait_eq_none fun ⟨_, hle, _⟩ => by omega) ?_ rfl input false
    exact ⟨rfl, _, rfl, by omega, by omega⟩
  · exact h.of_exec he hle hd hex
  · have hw : s.wait = none := h.wait_eq_none fun ⟨_, _, hj, _⟩ => nomatch hd.symm.trans hj
    obtain ⟨-, e⟩ | ⟨-, e⟩ := (s.handed input).unknownOutcome_cases s.fetchWord
    · rw [e, State.handed_erred]
      refine h.record_error hw ?_ rfl input false
      exact ⟨rfl, rfl, rfl⟩
    · have hpc := State.toNat_handed_pc (input := input) hle
      rw [e]
      exact State.inv_of_idle hw he h.params_wf (by omega) h.stack_length h.stack_entries h.mem_wf

/-- Settles O12: by the kind of the step, on the state with the host's turn taken. -/
theorem stepKeepsMachineInvariant : Obligations.StepKeepsMachineInvariant := by
  intro s t h hstep
  obtain ⟨s0, ⟨input, hn, hc⟩ | ⟨p, hn, hp, rfl⟩ | ⟨bytes, hn, hf, rfl⟩ | ⟨hn, rfl⟩ | ⟨hn | hn, rfl⟩⟩ :=
    step_cases s t hstep
  · exact (h.of_hostNext hn).of_cycle hc
  · exact s0.resetOp_inv hp
  · exact (h.of_hostNext hn).loadRom hf bytes
  · exact (h.of_hostNext hn).update _ _ s0.schedule s0.standing s0.freeIndex
  · exact h.of_hostNext hn
  · exact h.of_hostNext hn

end Sys2Proof.Machine

/-! ### 20_memory: the writers of memory, ranges that leave it, and stores seen by fetch (R53 to R66) -/

namespace Sys2Proof.Machine

variable {i : Instr} {s t : State}

/-- Settles O16: an error leaves memory alone, and so does every completed instruction that is not one of the two. -/
theorem memoryWrittenOnlyByFx33AndFx55 : Obligations.MemoryWrittenOnlyByFx33AndFx55 := by
  intro i s t h hne
  obtain ⟨_, _, -, rfl⟩ | ⟨-, hc⟩ := exec_cases h
  · exact absurd rfl hne
  cases i with
  | ldBVx x => exact ⟨x, .inl rfl⟩
  | ldMemVx x => exact ⟨x, .inr rfl⟩
  | ret => obtain ⟨_, _, -, rfl⟩ := hc; exact absurd rfl hne
  | ldVxK x => obtain ⟨rfl, -⟩ | ⟨_, _, -, -, rfl⟩ := hc <;> exact absurd rfl hne
  | _ => cases hc; exact absurd rfl hne

/-! #### Ranges that leave memory -/

/-- An instruction has at most one error to raise. -/
theorem Raises.unique {kind kind' : ErrKind} {addr addr' : Option Nat} (h : Raises s i kind addr)
    (h' : Raises s i kind' addr') : kind = kind' ∧ addr = addr' := by
  cases h <;> cases h' <;> exact ⟨rfl, rfl⟩

/-- An instruction with an error to raise records it and does nothing else. -/
theorem Raises.exec_eq {kind : ErrKind} {addr : Option Nat} (h : Raises s i kind addr) :
    exec i s = .next (s.erred kind (encodeWord i) addr) := by
  obtain ⟨t, he, -⟩ := exec_recordUpdate i s
  obtain ⟨kind', addr', h', rfl⟩ | ⟨hn, -⟩ := exec_cases he
  · obtain ⟨rfl, rfl⟩ := h.unique h'
    exact he
  · exact absurd h (hn kind addr)

/-- Settles O44: in each of the four cases the range has a byte above 0xFFF, which is the instruction's error. -/
theorem rangeBeyondMemoryRaises : Obligations.RangeBeyondMemoryRaises := by
  intro x y n s
  refine ⟨fun h => ?_, fun h => ?_, fun hn h => ?_⟩
  · exact (Raises.ldBVx x (by omega)).exec_eq
  · have hr : 0x1000 < s.i.toNat + regCount x := by rw [regCount]; omega
    exact ⟨(Raises.ldMemVx x hr).exec_eq, (Raises.ldVxMem x hr).exec_eq⟩
  · exact (Raises.drw x y n (by omega)).exec_eq

/-! #### Stores that the next fetch sees -/

theorem State.length_regsUpTo (x : Reg) : (s.regsUpTo x).length = x.val + 1 := by
  rw [State.regsUpTo, List.length_take, Vector.length_toList]
  omega

theorem State.getElem_regsUpTo (x r : Reg) (h : r.val < (s.regsUpTo x).length) :
    (s.regsUpTo x)[r.val] = s.getV r := by
  simp only [State.regsUpTo, List.getElem_take, Vector.getElem_toList, State.getV]

/-- Each register stored from `a` up reads back from its place (42_index_memory R154). -/
theorem State.readByte_storeBytes_regsUpTo {x r : Reg} {a : Nat} (ha : a + x.val ≤ 0xFFF) (hr : r ≤ x) :
    (s.storeBytes a (s.regsUpTo x)).readByte (a + r.val) = s.getV r := by
  have hlen := s.length_regsUpTo x
  have hr : r.val ≤ x.val := hr
  rw [State.readByte_storeBytes _ _ _ _ (by omega), dif_pos (by omega)]
  simp only [Nat.add_sub_cancel_left, State.getElem_regsUpTo]

/-- With its range in memory FX55 is its store. -/
theorem eq_storeBytes_of_exec_ldMemVx {x : Reg} (hx : s.i.toNat + x.val ≤ 0xFFF) (h : exec (.ldMemVx x) s = .next t) :
    t = s.storeBytes s.i.toNat (s.regsUpTo x) := by
  obtain ⟨hout, -⟩ | ⟨-, e⟩ := State.next_withIndexRange h
  · rw [regCount] at hout
    omega
  · exact e

/-- The first byte of a word is its high byte (20_memory R55). -/
theorem toNat_wordOfBytes (hi lo : Byte) : (wordOfBytes hi lo).toNat = 256 * hi.toNat + lo.toNat := by
  have := lo.isLt
  rw [wordOfBytes, BitVec.toNat_append, ← Nat.shiftLeft_add_eq_or_of_lt this, Nat.shiftLeft_eq]
  omega

/-- Settles O45: the store leaves pc alone, and the bytes at pc are those of V0 and V1. -/
theorem storedWordIsFetchedNext : Obligations.StoredWordIsFetchedNext := by
  intro x s t hx hrange hpc h
  have e := eq_storeBytes_of_exec_ldMemVx hrange h
  have htpc : t.pc.toNat = s.i.toNat := by
    rw [e, State.storeBytes_eq]
    exact hpc
  have h0 : t.readByte s.i.toNat = s.getV 0 := e ▸ State.readByte_storeBytes_regsUpTo hrange (Fin.zero_le x)
  have h1 : t.readByte (s.i.toNat + 1) = s.getV 1 := e ▸ State.readByte_storeBytes_regsUpTo (r := 1) hrange hx
  rw [State.fetchWord, htpc, h0, h1, toNat_wordOfBytes]

end Sys2Proof.Machine

/-! ### 30_encoding: the decoder, the encoder and the opcode table (R70 to R82, R88) -/

namespace Sys2Proof.Laws.EncodesItsRow

/-- Every instruction's word is covered by a row with its mnemonic. -/
theorem statement : ∀ i : Instr, Statement i
  | .cls => cls
  | .ret => ret
  | .jp nnn => jp nnn
  | .call nnn => call nnn
  | .seImm x nn => seImm x nn
  | .sneImm x nn => sneImm x nn
  | .seReg x y => seReg x y
  | .ldImm x nn => ldImm x nn
  | .addImm x nn => addImm x nn
  | .ldReg x y => ldReg x y
  | .orReg x y => orReg x y
  | .andReg x y => andReg x y
  | .xorReg x y => xorReg x y
  | .addReg x y => addReg x y
  | .sub x y => sub x y
  | .shr x y => shr x y
  | .subn x y => subn x y
  | .shl x y => shl x y
  | .sneReg x y => sneReg x y
  | .ldI nnn => ldI nnn
  | .jpV0 nnn => jpV0 nnn
  | .rnd x nn => rnd x nn
  | .drw x y n => drw x y n
  | .skp x => skp x
  | .sknp x => sknp x
  | .ldVxDt x => ldVxDt x
  | .ldVxK x => ldVxK x
  | .ldDtVx x => ldDtVx x
  | .ldStVx x => ldStVx x
  | .addIVx x => addIVx x
  | .ldFVx x => ldFVx x
  | .ldBVx x => ldBVx x
  | .ldMemVx x => ldMemVx x
  | .ldVxMem x => ldVxMem x

end Sys2Proof.Laws.EncodesItsRow

namespace Sys2Proof

variable {w : Word16} {i : Instr}

/-! #### The fields of a word as numbers (R71) -/

theorem toNat_opField (w : Word16) : (opField w).toNat = w.toNat / 0x1000 := by
  have := w.isLt
  rw [opField, BitVec.extractLsb'_toNat, Nat.shiftRight_eq_div_pow]
  omega

theorem toNat_nField (w : Word16) : (nField w).toNat = w.toNat % 16 := BitVec.extractLsb'_toNat ..

theorem toNat_nnField (w : Word16) : (nnField w).toNat = w.toNat % 256 := BitVec.extractLsb'_toNat ..

theorem toNat_nnnField (w : Word16) : (nnnField w).toNat = w.toNat % 0x1000 := BitVec.extractLsb'_toNat ..

theorem val_xField (w : Word16) : (xField w).val = w.toNat / 256 % 16 := by
  rw [xField, BitVec.val_toFin, BitVec.extractLsb'_toNat, Nat.shiftRight_eq_div_pow]

theorem val_yField (w : Word16) : (yField w).val = w.toNat / 16 % 16 := by
  rw [yField, BitVec.val_toFin, BitVec.extractLsb'_toNat, Nat.shiftRight_eq_div_pow]

/-! #### The fields of each format (R73) -/

theorem fields_formatNnn (o : Nibble) (nnn : Word12) :
    opField (formatNnn o nnn) = o ∧ nnnField (formatNnn o nnn) = nnn := by
  have := nnn.isLt
  refine ⟨BitVec.eq_of_toNat_eq ?_, BitVec.eq_of_toNat_eq ?_⟩
  · rw [toNat_opField, toNat_formatNnn]; omega
  · rw [toNat_nnnField, toNat_formatNnn]; omega

theorem fields_formatXnn (o : Nibble) (x : Reg) (nn : Byte) :
    opField (formatXnn o x nn) = o ∧ xField (formatXnn o x nn) = x ∧ nnField (formatXnn o x nn) = nn := by
  have := x.isLt
  have := nn.isLt
  refine ⟨BitVec.eq_of_toNat_eq ?_, Fin.ext ?_, BitVec.eq_of_toNat_eq ?_⟩
  · rw [toNat_opField, toNat_formatXnn]; omega
  · rw [val_xField, toNat_formatXnn]; omega
  · rw [toNat_nnField, toNat_formatXnn]; omega

theorem fields_formatXyn (o : Nibble) (x y : Reg) (n : Nibble) :
    opField (formatXyn o x y n) = o ∧ xField (formatXyn o x y n) = x ∧ yField (formatXyn o x y n) = y ∧
      nField (formatXyn o x y n) = n := by
  have := x.isLt
  have := y.isLt
  have := n.isLt
  refine ⟨BitVec.eq_of_toNat_eq ?_, Fin.ext ?_, Fin.ext ?_, BitVec.eq_of_toNat_eq ?_⟩
  · rw [toNat_opField, toNat_formatXyn]; omega
  · rw [val_xField, toNat_formatXyn]; omega
  · rw [val_yField, toNat_formatXyn]; omega
  · rw [toNat_nField, toNat_formatXyn]; omega

theorem formatNnn_fields (w : Word16) : formatNnn (opField w) (nnnField w) = w := by
  refine BitVec.eq_of_toNat_eq ?_
  rw [toNat_formatNnn, toNat_opField, toNat_nnnField]
  omega

theorem formatXnn_fields (w : Word16) : formatXnn (opField w) (xField w) (nnField w) = w := by
  refine BitVec.eq_of_toNat_eq ?_
  rw [toNat_formatXnn, toNat_opField, val_xField, toNat_nnField]
  omega

theorem formatXyn_fields (w : Word16) : formatXyn (opField w) (xField w) (yField w) (nField w) = w := by
  refine BitVec.eq_of_toNat_eq ?_
  rw [toNat_formatXyn, toNat_opField, val_xField, val_yField, toNat_nField]
  omega

/-! #### The two round trips on words -/

/-- Each format keeps the fields the dispatch reads and those it fills in. -/
theorem decodeWord_encodeWord (i : Instr) : decodeWord (encodeWord i) = some i := by
  cases i with
  | cls | ret => rfl
  | jp | call | ldI | jpV0 => simp [encodeWord, decodeWord, fields_formatNnn]
  | seReg | ldReg | orReg | andReg | xorReg | addReg | sub | shr | subn | shl | sneReg | drw =>
    simp [encodeWord, decodeWord, fields_formatXyn]
  | _ => simp [encodeWord, decodeWord, fields_formatXnn]

/-- A word with the op and the fixed fields of a row is the format of that row filled with the word's own fields. -/
theorem encodeWord_of_decodeWord (h : decodeWord w = some i) : encodeWord i = w := by
  have hnnn {o : Nibble} (ho : (opField w).toNat = o.toNat) : formatNnn o (nnnField w) = w :=
    BitVec.eq_of_toNat_eq ho ▸ formatNnn_fields w
  have hxnn {o : Nibble} {nn : Byte} (ho : (opField w).toNat = o.toNat) (hn : (nnField w).toNat = nn.toNat) :
      formatXnn o (xField w) nn = w :=
    BitVec.eq_of_toNat_eq ho ▸ BitVec.eq_of_toNat_eq hn ▸ formatXnn_fields w
  have hxyn {o n : Nibble} (ho : (opField w).toNat = o.toNat) (hn : (nField w).toNat = n.toNat) :
      formatXyn o (xField w) (yField w) n = w :=
    BitVec.eq_of_toNat_eq ho ▸ BitVec.eq_of_toNat_eq hn ▸ formatXyn_fields w
  unfold decodeWord at h
  -- case `h_k` is op k - 1, here and in every split of the dispatch below
  split at h
  case h_1 =>
    split_ifs at h with hcls hret
    · cases h; exact hcls.symm
    · cases h; exact hret.symm
  case h_6 ho | h_10 ho =>
    split_ifs at h with hn
    cases h
    exact hxyn ho (congrArg BitVec.toNat hn)
  case h_9 ho => split at h <;> cases h <;> exact hxyn ho ‹_›
  case h_15 ho | h_16 ho => split at h <;> cases h <;> exact hxnn ho ‹_›
  case h_2 ho | h_3 ho | h_11 ho | h_12 ho => cases h; exact hnnn ho
  case h_4 ho | h_5 ho | h_7 ho | h_8 ho | h_13 ho => cases h; exact hxnn ho rfl
  case h_14 ho => cases h; exact hxyn ho rfl
  case h_17 => cases h

/-! #### The round trips on bytes (R70, R55) -/

/-- A decoder takes two bytes, and answers the instruction their word names. -/
theorem decode_eq_instr {hi lo : Byte} {rest rest' : List Byte} :
    decode (hi :: lo :: rest) = .instr i rest' ↔ decodeWord (wordOfBytes hi lo) = some i ∧ rest' = rest := by
  rw [decode]
  split
  next j hj => rw [hj, Decoded.instr.injEq, Option.some.injEq, eq_comm (a := rest)]
  next hn => simp [hn]

theorem highByte_wordOfBytes (hi lo : Byte) : highByte (wordOfBytes hi lo) = hi :=
  BitVec.extractLsb'_append_eq_left

theorem lowByte_wordOfBytes (hi lo : Byte) : lowByte (wordOfBytes hi lo) = lo :=
  BitVec.extractLsb'_append_eq_right

theorem Reg.wellFormed_eq_true (r : Reg) : r.wellFormed = true := decide_eq_true r.isLt

/-- The operand types have the widths of their fields (10_state R21). -/
theorem Instr.wellFormed_eq_true (i : Instr) : i.wellFormed = true := by
  cases i <;> simp [Instr.wellFormed, Reg.wellFormed_eq_true]

/-- Settles O2: the two bytes make the instruction's word again, which decodes to it. -/
theorem decodeAfterEncodeIsIdentity : Obligations.DecodeAfterEncodeIsIdentity := by
  refine fun i rest => ⟨i.wellFormed_eq_true, decode_eq_instr.mpr ⟨?_, rfl⟩⟩
  rw [wordOfBytes_highByte_lowByte, decodeWord_encodeWord]

/-- Settles O3: the instruction's word is the word of the two bytes. -/
theorem encodeAfterDecodeIsIdentity : Obligations.EncodeAfterDecodeIsIdentity := by
  intro hi lo rest rest' i h
  obtain ⟨hd, rfl⟩ := decode_eq_instr.mp h
  rw [encode, encodeWord_of_decodeWord hd, highByte_wordOfBytes, lowByte_wordOfBytes]
  exact ⟨rfl, rfl⟩

/-! #### The opcode table (R82) -/

/-- The dispatch reads the op and, in some families, the whole word, N or NN. -/
theorem mnemonic_congr {p : Word16} (hop : opField w = opField p) (hword : (opField p).toNat = 0x0 → w = p)
    (hn : (opField p).toNat ∈ [0x5, 0x8, 0x9] → nField w = nField p)
    (hnn : (opField p).toNat ∈ [0xE, 0xF] → nnField w = nnField p) :
    (decodeWord w).map Instr.mnemonic = (decodeWord p).map Instr.mnemonic := by
  unfold decodeWord
  rw [hop]
  split
  case h_1 ho => rw [hword ho]
  case h_6 ho | h_10 ho =>
    rw [hn (by rw [ho]; decide)]
    split_ifs <;> rfl
  case h_9 ho =>
    rw [hn (by rw [ho]; decide)]
    split <;> rfl
  case h_15 ho | h_16 ho =>
    rw [hnn (by rw [ho]; decide)]
    split <;> rfl
  all_goals rfl

/-- What a mask shows of a word are the word's fields under the mask's. -/
theorem fields_and (w m : Word16) : opField (w &&& m) = opField w &&& opField m ∧
    nField (w &&& m) = nField w &&& nField m ∧ nnField (w &&& m) = nnField w &&& nnField m :=
  ⟨BitVec.extractLsb'_and .., BitVec.extractLsb'_and .., BitVec.extractLsb'_and ..⟩

/-- A row's mask has the bits that its family is dispatched on, and its pattern is dispatched to the row. -/
theorem opcodeTable_masks : ∀ row ∈ opcodeTable,
    opField row.mask = BitVec.allOnes 4 ∧ ((opField row.pat).toNat = 0x0 → row.mask = BitVec.allOnes 16) ∧
    ((opField row.pat).toNat ∈ [0x5, 0x8, 0x9] → nField row.mask = BitVec.allOnes 4) ∧
    ((opField row.pat).toNat ∈ [0xE, 0xF] → nnField row.mask = BitVec.allOnes 8) ∧
    (decodeWord row.pat).map Instr.mnemonic = some row.mnemonic := by decide

/-- The instruction of a word that a row covers has that row's mnemonic. -/
theorem mnemonic_of_row {row : OpcodeRow} (hr : row ∈ opcodeTable) (hw : w &&& row.mask = row.pat) :
    (decodeWord w).map Instr.mnemonic = some row.mnemonic := by
  obtain ⟨hop, hword, hn, hnn, hpat⟩ := opcodeTable_masks row hr
  obtain ⟨eop, en, enn⟩ := hw ▸ fields_and w row.mask
  rw [← hpat]
  refine mnemonic_congr ?_ (fun h => ?_) (fun h => ?_) (fun h => ?_)
  · rw [eop, hop, BitVec.and_allOnes]
  · rw [← hw, hword h, BitVec.and_allOnes]
  · rw [en, hn h, BitVec.and_allOnes]
  · rw [enn, hnn h, BitVec.and_allOnes]

theorem length_filter_le_one {α : Type} {p : α → Bool} {l : List α}
    (h : l.Pairwise fun a b => p a = true → p b = false) : (l.filter p).length ≤ 1 := by
  induction h with
  | nil => exact Nat.zero_le 1
  | @cons a l ha _ ih =>
    rw [List.filter_cons]
    split
    next hp =>
      have hnil : l.filter p = [] := List.filter_eq_nil_iff.mpr fun b hb => by rw [ha b hb hp]; decide
      rw [hnil]
      rfl
    · exact ih

/-- Two rows that share a word agree where their masks overlap; in the table no two do. -/
theorem opcodeTable_pairwise : opcodeTable.Pairwise fun r r' => r.pat &&& r'.mask ≠ r'.pat &&& r.mask := by decide

/-- At most one row covers a word: what two rows see of it agrees where their masks overlap. -/
theorem length_covering_le_one (w : Word16) : (opcodeTable.filter fun r => w &&& r.mask == r.pat).length ≤ 1 := by
  refine length_filter_le_one (opcodeTable_pairwise.imp fun {r r'} hne h => ?_)
  refine beq_eq_false_iff_ne.mpr fun h' => hne ?_
  rw [← beq_iff_eq.mp h, ← h', BitVec.and_assoc, BitVec.and_assoc, BitVec.and_comm r.mask]

/-- Settles O4: the row found is the instruction's, and where none is found no instruction has a row. -/
theorem dispatchAgreesWithOpcodeTable : Obligations.DispatchAgreesWithOpcodeTable := by
  refine fun w => ⟨?_, length_covering_le_one w⟩
  cases hf : opcodeTable.find? fun r => w &&& r.mask == r.pat with
  | some row => exact mnemonic_of_row (List.mem_of_find?_eq_some hf) (beq_iff_eq.mp (List.find?_some hf :))
  | none =>
    have hnone : decodeWord w = none := by
      refine Option.eq_none_iff_forall_ne_some.mpr fun i hi => ?_
      obtain ⟨row, hr, -, hw⟩ := Laws.EncodesItsRow.statement i
      rw [encodeWord_of_decodeWord hi] at hw
      exact List.find?_eq_none.mp hf row hr (beq_iff_eq.mpr hw)
    rw [hnone]
    rfl

/-! #### The unknown words (R76) -/

/-- Settles O5: the op leaves one family, which holds what its field is not dispatched on. -/
theorem unknownWordsAreTheSixFamilies : Obligations.UnknownWordsAreTheSixFamilies := by
  intro w
  have hop : w.toNat / 0x1000 < 16 := by have := w.isLt; omega
  have hn : w.toNat % 16 < 16 := Nat.mod_lt _ (by decide)
  have hop0 : w.toNat < 0x1000 ↔ w.toNat / 0x1000 = 0 := by omega
  have hn0 : nField w = 0 ↔ w.toNat % 16 = 0 := by rw [BitVec.toNat_eq, toNat_nField]; rfl
  unfold decodeWord
  simp only [toNat_opField, toNat_nField, toNat_nnField, hop0, hn0]
  split
  case h_1 ho =>
    split_ifs with hcls hret
    · simp [hcls]
    · simp [hret]
    · exact iff_of_true rfl (.inl ⟨ho, hcls, hret⟩)
  case h_6 ho | h_10 ho => simp [ho]
  case h_9 ho =>
    simp only [ho]
    generalize w.toNat % 16 = n at hn
    interval_cases n <;> simp
  case h_15 ho | h_16 ho =>
    simp only [ho]
    split <;> simp_all
  case h_2 ho | h_3 ho | h_4 ho | h_5 ho | h_7 ho | h_8 ho | h_11 ho | h_12 ho | h_13 ho | h_14 ho => simp [ho]
  case h_17 =>
    exfalso
    simp only [imp_false] at *
    omega

/-! #### The sample words (R88) -/

/-- Settles O1: every clause is about one fixed word. -/
theorem sampleWordsDecodeAsTabulated : Obligations.SampleWordsDecodeAsTabulated := by
  unfold Obligations.SampleWordsDecodeAsTabulated
  decide

end Sys2Proof

/-! ### 30_encoding: the cycle (R80 to R87) -/

namespace Sys2Proof.Machine

variable {s s0 t : State} {input : CycleInput} {i : Instr}

/-- The word of the two bytes at pc, the byte at pc the high one (20_memory R55). -/
theorem State.toNat_fetchWord (s : State) :
    s.fetchWord.toNat = 256 * (s.readByte s.pc.toNat).toNat + (s.readByte (s.pc.toNat + 1)).toNat :=
  toNat_wordOfBytes ..

/-! #### Taking the host's turn leaves what a cycle reads -/

theorem State.HostNext.err_eq {h : HostStep} (hn : s.HostNext h s0) : s0.err = s.err := by
  obtain ⟨l, n, rfl⟩ := hn.frame
  rfl

theorem State.HostNext.pc_eq {h : HostStep} (hn : s.HostNext h s0) : s0.pc = s.pc := by
  obtain ⟨l, n, rfl⟩ := hn.frame
  rfl

theorem State.HostNext.fetchWord_eq {h : HostStep} (hn : s.HostNext h s0) : s0.fetchWord = s.fetchWord := by
  obtain ⟨l, n, rfl⟩ := hn.frame
  rfl

/-! #### What a cycle does -/

/-- Settles O6: the two bytes are the word the cycle fetches. -/
theorem stepRunsDecodedInstruction : Obligations.StepRunsDecodedInstruction := by
  intro s s0 input i hn he hpc hd
  have hi : decodeWord s.fetchWord = some i := (decode_eq_instr.mp hd).1
  rw [step_of_cycleNext s input s0 hn,
    cycle_of_instr s0 input i (hn.err_eq.trans he) (by rw [hn.pc_eq]; omega) (by rw [hn.fetchWord_eq, hi]),
    ← hn.pc_eq]
  rfl

/-- Settles O7: the range of the fetch leaves memory. -/
theorem fetchBeyondMemoryRecordsError : Obligations.FetchBeyondMemoryRecordsError := by
  intro s s0 input hn he hpc
  have haddr : max s.pc.toNat 0x1000 = if s.pc.toNat > 0xFFF then s.pc.toNat else 0x1000 := by split <;> omega
  rw [step_of_cycleNext s input s0 hn,
    cycle_of_fetch_out s0 input (hn.err_eq.trans he) (by rw [hn.pc_eq]; omega), ← haddr, ← hn.pc_eq]
  rfl

/-- Settles O8: the word is the one the cycle fetches, and the policy decides. -/
theorem unknownWordFollowsPolicy : Obligations.UnknownWordFollowsPolicy := by
  intro s s0 input w hn he hpc hw hd
  obtain rfl : w = s.fetchWord := BitVec.eq_of_toNat_eq (hw.trans s.toNat_fetchWord.symm)
  rw [step_of_cycleNext s input s0 hn,
    cycle_of_unknown s0 input (hn.err_eq.trans he) (by rw [hn.pc_eq]; omega) (by rw [hn.fetchWord_eq, hd]),
    hn.fetchWord_eq, ← hn.pc_eq, ← hn.params_eq]
  obtain ⟨hp, e⟩ | ⟨hp, e⟩ := (s0.handed input).unknownOutcome_cases s.fetchWord
  · refine ⟨fun _ => ?_, fun h => nomatch hp.symm.trans h⟩
    rw [e, State.handed_erred]
    rfl
  · refine ⟨fun h => (nomatch hp.symm.trans h), fun _ => ?_⟩
    rw [e]
    rfl

theorem State.loadRom_err (s : State) (bytes : List Byte) (he : s.err ≠ none) : (s.loadRom bytes).err ≠ none := by
  unfold State.loadRom
  split
  · exact nofun
  · rwa [State.storeBytes_eq]

/-- Settles O9: a cycle has no step, and of the host's other operations only Reset writes `err` to none. -/
theorem recordedErrorStopsTheCore : Obligations.RecordedErrorStopsTheCore := by
  intro s he
  refine ⟨fun input s0 hn => ?_, fun t h => ?_⟩
  · obtain ⟨e, hs⟩ := Option.ne_none_iff_exists'.mp he
    rw [step_of_cycleNext s input s0 hn, cycle_of_err s0 input e (hn.err_eq.trans hs)]
  · obtain ⟨s0, ⟨input, hn, hc⟩ | ⟨p, hn, -, rfl⟩ | ⟨bytes, hn, -, rfl⟩ | ⟨hn, rfl⟩ | ⟨hn | hn, rfl⟩⟩ :=
      step_cases s t h
    · obtain ⟨hnone, -⟩ := cycle_cases s0 t input hc
      exact absurd (hn.err_eq.symm.trans hnone) he
    · exact .inr ⟨p, s0, hn⟩
    · exact .inl (s0.loadRom_err bytes (hn.err_eq.symm ▸ he))
    · exact .inl (hn.err_eq.symm ▸ he : s0.err ≠ none)
    · exact .inl (hn.err_eq.symm ▸ he)
    · exact .inl (hn.err_eq.symm ▸ he)

/-- An error of the word fetched: nothing but `err` differs, and the record names the cycle's pc and that word. -/
theorem State.handed_erred_precise {kind : ErrKind} {addr : Option Nat} {e : ErrRecord}
    (he : ((s.handed input).erred kind s.fetchWord addr).err = some e) :
    (s.handed input).erred kind s.fetchWord addr = { s.latched input with err := some e } ∧ e.pc = s.pc ∧
      ∀ w, e.opcode = some w → w = s.fetchWord := by
  rw [State.handed_erred] at he ⊢
  cases he
  exact ⟨rfl, rfl, fun _ hw => (Option.some.inj hw).symm⟩

/-- A cycle that ends with an error has done nothing but record it, at its own pc; an opcode recorded is the word
fetched, which is the encoding of the instruction it decodes to. -/
theorem eq_of_cycle_err {e : ErrRecord} (h : cycle input s = .next t) (he : t.err = some e) :
    t = { s.latched input with err := some e } ∧ e.pc = s.pc ∧
      ∀ w, e.opcode = some w → s.pc.toNat + 2 ≤ 0x1000 ∧ w = s.fetchWord := by
  obtain ⟨hs, ⟨-, rfl⟩ | ⟨hle, i, hd, hex⟩ | ⟨hle, -, rfl⟩⟩ := cycle_cases s t input h
  · cases he
    exact ⟨rfl, rfl, nofun⟩
  · obtain ⟨kind, addr, -, rfl⟩ | ⟨-, hc⟩ := exec_cases hex
    · rw [encodeWord_of_decodeWord hd] at he ⊢
      obtain ⟨ht, hpc, hop⟩ := State.handed_erred_precise he
      exact ⟨ht, hpc, fun w hw => ⟨hle, hop w hw⟩⟩
    · exact nomatch (hs.symm.trans hc.err_eq.symm).trans he
  · obtain ⟨-, hout⟩ | ⟨-, hout⟩ := (s.handed input).unknownOutcome_cases s.fetchWord
    · rw [hout] at he ⊢
      obtain ⟨ht, hpc, hop⟩ := State.handed_erred_precise he
      exact ⟨ht, hpc, fun w hw => ⟨hle, hop w hw⟩⟩
    · rw [hout] at he
      exact nomatch hs.symm.trans he

/-- Settles O10: what the cycle leaves, told of the state before the host's turn was taken. -/
theorem errorLeavesStateAsBeforeCycle : Obligations.ErrorLeavesStateAsBeforeCycle := by
  intro s s0 t input e hn _ hstep he
  obtain ⟨ht, hpc, hop⟩ := eq_of_cycle_err ((step_of_cycleNext s input s0 hn).symm.trans hstep) he
  refine ⟨ht, hpc.trans hn.pc_eq, fun w hw => ?_⟩
  obtain ⟨hle, rfl⟩ := hop w hw
  rw [hn.pc_eq] at hle
  exact ⟨by omega, hn.fetchWord_eq ▸ s.toNat_fetchWord⟩

end Sys2Proof.Machine

/-! ### 40_control_flow: subroutines, jumps and skips (R100 to R109) -/

namespace Sys2Proof.Machine

variable {s : State}

/-! #### Subroutines (R100, R102, R109) -/

/-- A RET with a return address on the stack pops it into pc. -/
theorem exec_ret_of_stack_eq {rest : List Word16} {a : Word16} (h : s.stack = rest ++ [a]) :
    exec .ret s = .next { s with pc := a, stack := rest } := by
  rw [exec_ret, execRet, h, List.getLast?_concat, List.dropLast_concat]
  rfl

/-- A CALL below the depth pushes the advanced pc and jumps. -/
theorem exec_call_of_lt (nnn : Word12) (h : s.stack.length < s.params.stackDepth) :
    exec (.call nnn) s = .next { s with pc := addrOfNnn nnn, stack := s.stack ++ [s.pc] } := by
  rw [exec_call, execCall, if_neg (Nat.not_le.mpr h)]
  rfl

/-- Settles O30: the RET pops the entry that the CALL pushed, and its pc overwrites the target. -/
theorem callThenRetComesBack : Obligations.CallThenRetComesBack :=
  fun nnn _ h => ⟨_, _, exec_call_of_lt nnn h, exec_ret_of_stack_eq rfl, rfl⟩

/-- Settles O24: the pop with an entry on the stack, the instruction's error without one. -/
theorem retPopsReturnAddress : Obligations.RetPopsReturnAddress :=
  ⟨rfl, fun _ => ⟨fun _ _ => exec_ret_of_stack_eq, fun h => (Raises.ret h).exec_eq⟩⟩

/-- Settles O26: the push below the depth, the instruction's error at it. -/
theorem callPushesReturnAddress : Obligations.CallPushesReturnAddress := by
  refine fun nnn s => ⟨?_, fun h => ?_, fun h => ?_⟩
  · exact toNat_formatNnn 0x2 nnn
  · exact ⟨_, exec_call_of_lt nnn h, rfl, toNat_addrOfNnn nnn⟩
  · exact (Raises.call nnn h.ge).exec_eq

/-! #### Jumps (R101, R107) -/

/-- Settles O25: the target is NNN as a pc value. -/
theorem jumpSetsPcToTarget : Obligations.JumpSetsPcToTarget :=
  fun nnn _ => ⟨toNat_formatNnn 0x1 nnn, _, rfl, rfl, toNat_addrOfNnn nnn⟩

/-- Settles O27: the largest sum, 0x10FE, fits pc's 16 bits. -/
theorem jumpV0AddsWithoutWrap : Obligations.JumpV0AddsWithoutWrap :=
  fun nnn s => ⟨_, rfl, rfl, toNat_addrOfSum nnn (s.getV 0)⟩

/-! #### Skips (R103 to R106) -/

theorem State.skipIf_eq_ite (s : State) (c : Bool) : s.skipIf c = if c then { s with pc := s.pc + 2 } else s := by
  cases c <;> rfl

/-- Settles O28: the words are those of the format, and each skip compares V[X] with NN. -/
theorem immediateSkipsCompareRegister : Obligations.ImmediateSkipsCompareRegister := by
  refine fun x nn s => ⟨?_, ?_, ?_, ?_⟩
  · exact toNat_formatXnn 0x3 x nn
  · exact toNat_formatXnn 0x4 x nn
  · rw [exec_seImm, execSeImm, State.skipIf_eq_ite]
    simp only [beq_iff_eq]
  · rw [exec_sneImm, execSneImm, State.skipIf_eq_ite]
    simp only [bne_iff_ne, ne_eq, ite_not]

theorem exec_seReg_eq_ite (x y : Reg) (s : State) :
    exec (.seReg x y) s = .next (if s.getV x = s.getV y then { s with pc := s.pc + 2 } else s) := by
  rw [exec_seReg, execSeReg, State.skipIf_eq_ite]
  simp only [beq_iff_eq]

theorem exec_sneReg_eq_ite (x y : Reg) (s : State) :
    exec (.sneReg x y) s = .next (if s.getV x = s.getV y then s else { s with pc := s.pc + 2 }) := by
  rw [exec_sneReg, execSneReg, State.skipIf_eq_ite]
  simp only [bne_iff_ne, ne_eq, ite_not]

/-- Settles O29: with X = Y the registers compared are equal. -/
theorem registerSkipsCompareRegisters : Obligations.RegisterSkipsCompareRegisters := by
  refine fun x y s => ⟨exec_seReg_eq_ite x y s, exec_sneReg_eq_ite x y s, ?_, ?_⟩
  · rw [exec_seReg_eq_ite, if_pos rfl]
  · rw [exec_sneReg_eq_ite, if_pos rfl]

end Sys2Proof.Machine

/-! ### 41_alu: registers and arithmetic (R120 to R131) -/

namespace Sys2Proof.Machine

/-! #### The results and flags as numbers (R132) -/

theorem toNat_sumByte (a b : Byte) : (sumByte a b).toNat = (a.toNat + b.toNat) % 256 := BitVec.toNat_ofNat ..

theorem diffByte_eq_sub (a b : Byte) : diffByte a b = a - b := by
  refine BitVec.eq_of_toNat_eq ?_
  rw [diffByte, BitVec.toNat_ofNat, BitVec.toNat_sub]
  have := b.isLt
  omega

theorem shiftRightByte_eq_ushiftRight (a : Byte) : shiftRightByte a = a >>> 1 := by
  refine BitVec.eq_of_toNat_eq ?_
  rw [shiftRightByte, BitVec.toNat_ofNat, BitVec.toNat_ushiftRight, Nat.shiftRight_eq_div_pow]
  have := a.isLt
  omega

theorem shiftLeftByte_eq_shiftLeft (a : Byte) : shiftLeftByte a = a <<< 1 := by
  refine BitVec.eq_of_toNat_eq ?_
  rw [shiftLeftByte, BitVec.toNat_ofNat, BitVec.toNat_shiftLeft, Nat.shiftLeft_eq]

theorem toNat_flagByte (f : Bool) : (flagByte f).toNat = f.toNat := by
  cases f <;> rfl

theorem flagByte_decide (p : Prop) [Decidable p] : flagByte (decide p) = if p then 1 else 0 := by
  simp only [flagByte, decide_eq_true_eq]

theorem toNat_flagByte_lowBitOut (a : Byte) : (flagByte (lowBitOut a)).toNat = a.toNat % 2 := by
  rw [toNat_flagByte, lowBitOut, BitVec.getLsbD, Nat.toNat_testBit, pow_zero, Nat.div_one]

theorem toNat_flagByte_highBitOut (a : Byte) : (flagByte (highBitOut a)).toNat = a.toNat / 128 := by
  have := a.isLt
  rw [toNat_flagByte, highBitOut, BitVec.getLsbD, Nat.toNat_testBit]
  omega

/-! #### One destination: loads, ADD Vx, nn, logic and RND (R120 to R125, R131) -/

theorem State.getV_setV_self (s : State) (x : Reg) (b : Byte) : (s.setV x b).getV x = b := by
  rw [State.getV_setV, if_pos rfl]

theorem State.setV_keeps_others (s : State) (x : Reg) (b : Byte) : ∀ r, r ≠ x → (s.setV x b).getV r = s.getV r :=
  fun _ hr => State.getV_setV_of_ne hr b

/-- Settles O31: the words are those of the formats, and the one write is of NN, of the old V[Y]. -/
theorem loadsWriteOneRegister : Obligations.LoadsWriteOneRegister := by
  refine fun x y nn s => ⟨?_, ?_, ?_, ?_⟩
  · exact toNat_formatXnn 0x6 x nn
  · exact toNat_formatXyn 0x8 x y 0x0
  · exact ⟨_, rfl, rfl, s.getV_setV_self x _, s.setV_keeps_others x _⟩
  · exact ⟨_, rfl, rfl, s.getV_setV_self x _, s.setV_keeps_others x _⟩

/-- Settles O32: the one write is of the narrowed sum. -/
theorem addImmediateWrapsWithoutFlag : Obligations.AddImmediateWrapsWithoutFlag := by
  refine fun x nn s => ⟨toNat_formatXnn 0x7 x nn, _, rfl, rfl, ?_, s.setV_keeps_others x _⟩
  rw [State.getV_setV_self, toNat_sumByte]

/-- Settles O33: the one write is of the bitwise operation on the old V[X] and V[Y]. -/
theorem logicInstructionsWorkBitwise : Obligations.LogicInstructionsWorkBitwise := by
  refine fun x y s => ⟨⟨_, rfl, rfl, s.setV_keeps_others x _, fun k => ?_⟩,
    ⟨_, rfl, rfl, s.setV_keeps_others x _, fun k => ?_⟩, ⟨_, rfl, rfl, s.setV_keeps_others x _, fun k => ?_⟩⟩
  · rw [State.getV_setV_self, BitVec.getLsbD_or]
  · rw [State.getV_setV_self, BitVec.getLsbD_and]
  · rw [State.getV_setV_self, BitVec.getLsbD_xor]

/-- Settles O37: the one write is of the cycle's byte masked with NN. -/
theorem randomByteIsMasked : Obligations.RandomByteIsMasked := by
  refine fun x nn s => ⟨_, rfl, rfl, fun k => ?_, s.setV_keeps_others x _⟩
  rw [State.getV_setV_self, BitVec.getLsbD_and]

/-! #### A result and then the flag: sums, differences and shifts (R126 to R130) -/

/-- VF is written last, so it holds the flag for every x, F too (D10). -/
theorem State.getV_setResultFlag_flag (s : State) (x : Reg) (b : Byte) (f : Bool) :
    (s.setResultFlag x b f).getV Reg.flag = flagByte f := by
  rw [State.getV_setResultFlag, if_pos rfl]

theorem State.getV_setResultFlag_self (s : State) {x : Reg} (hx : x ≠ Reg.flag) (b : Byte) (f : Bool) :
    (s.setResultFlag x b f).getV x = b := by
  rw [State.getV_setResultFlag, if_neg hx, if_pos rfl]

theorem State.setResultFlag_keeps_others (s : State) (x : Reg) (b : Byte) (f : Bool) :
    ∀ r, r ≠ x → r ≠ Reg.flag → (s.setResultFlag x b f).getV r = s.getV r :=
  fun _ hx hf => State.getV_setResultFlag_of_ne (not_or.mpr ⟨hx, hf⟩) b f

theorem toNat_encodeWord_addReg (x y : Reg) :
    (encodeWord (.addReg x y)).toNat = 0x8004 + 0x100 * x.val + 0x10 * y.val := by
  have h : (encodeWord (.addReg x y)).toNat = 0x8000 + 0x100 * x.val + 0x10 * y.val + 0x4 := toNat_formatXyn 0x8 x y 0x4
  omega

/-- Settles O34: the result is the narrowed sum, the flag the carry of the exact one. -/
theorem addRegistersSetsCarry : Obligations.AddRegistersSetsCarry := by
  refine fun x y s => ⟨toNat_encodeWord_addReg x y, _, rfl, rfl, ?_, fun hx => ?_, s.setResultFlag_keeps_others x _ _⟩
  · exact (s.getV_setResultFlag_flag x _ _).trans (flagByte_decide _)
  · rw [s.getV_setResultFlag_self hx, toNat_sumByte]

/-- A difference written as the result with its flag, for any minuend `a` and subtrahend `b`. -/
theorem State.getV_setResultFlag_diffByte {s t : State} {x : Reg} {a b : Byte}
    (ht : t = s.setResultFlag x (diffByte a b) (noBorrow a b)) :
    t.getV Reg.flag = (if a.toNat ≥ b.toNat then 1 else 0) ∧ (x ≠ Reg.flag → t.getV x = a - b) ∧
      ∀ r, r ≠ x → r ≠ Reg.flag → t.getV r = s.getV r := by
  subst ht
  refine ⟨?_, fun hx => ?_, s.setResultFlag_keeps_others x _ _⟩
  · exact (s.getV_setResultFlag_flag x _ _).trans (flagByte_decide _)
  · rw [s.getV_setResultFlag_self hx, diffByte_eq_sub]

/-- Settles O35: both are differences, with V[X] and V[Y] in exchanged roles. -/
theorem subtractionsSetNoBorrow : Obligations.SubtractionsSetNoBorrow :=
  fun _ _ _ => ⟨⟨_, rfl, rfl, State.getV_setResultFlag_diffByte rfl⟩,
    ⟨_, rfl, rfl, State.getV_setResultFlag_diffByte rfl⟩⟩

/-- Settles O36: the next state of a shift does not mention y, so one state serves for every Y. -/
theorem shiftsMoveOneBitIgnoringY : Obligations.ShiftsMoveOneBitIgnoringY := by
  refine fun x y y' s => ⟨⟨_, rfl, rfl, rfl, ?_, fun hx => ?_, s.setResultFlag_keeps_others x _ _⟩,
    ⟨_, rfl, rfl, rfl, ?_, fun hx => ?_, s.setResultFlag_keeps_others x _ _⟩⟩
  · rw [State.getV_setResultFlag_flag, toNat_flagByte_lowBitOut]
  · rw [s.getV_setResultFlag_self hx, shiftRightByte_eq_ushiftRight]
  · rw [State.getV_setResultFlag_flag, toNat_flagByte_highBitOut]
  · rw [s.getV_setResultFlag_self hx, shiftLeftByte_eq_shiftLeft]

end Sys2Proof.Machine

/-! ### 42_index_memory: I, digits, and registers to and from memory (R150 to R155) -/

namespace Sys2Proof.Machine

variable {s : State}

/-! #### I (R150 to R152) -/

/-- Settles O38: the word is that of the format, and the one write is of NNN. -/
theorem loadIndexSetsI : Obligations.LoadIndexSetsI :=
  fun nnn _ => ⟨toNat_formatNnn 0xA nnn, rfl⟩

theorem toNat_indexSum (i : Word12) (vx : Byte) : (indexSum i vx).toNat = (i.toNat + vx.toNat) % 4096 :=
  BitVec.toNat_ofNat ..

/-- Settles O39: the one write is of the narrowed sum. -/
theorem addToIndexWrapsWithoutFlag : Obligations.AddToIndexWrapsWithoutFlag :=
  fun x s => ⟨_, rfl, rfl, toNat_indexSum s.i (s.getV x)⟩

/-- Admitted parameters keep the font below 0x200 (00_scope R6). -/
theorem Params.fontBase_le {p : Params} (hp : p.wellFormed = true) : p.fontBase + 80 ≤ 0x200 := by
  obtain ⟨-, hf⟩ := (Bool.and_eq_true _ _).mp hp
  exact of_decide_eq_true hf

/-- The highest address, 0x1B0 + 5 * 0xFF, fits I's 12 bits. -/
theorem toNat_glyphAddr {p : Params} (hp : p.wellFormed = true) (vx : Byte) :
    (glyphAddr p vx).toNat = p.fontBase + 5 * vx.toNat := by
  have hf := Params.fontBase_le hp
  have hv := vx.isLt
  rw [glyphAddr, BitVec.toNat_ofNat, Nat.mod_eq_of_lt (by omega)]

theorem toNat_encodeWord_ldFVx (x : Reg) : (encodeWord (.ldFVx x)).toNat = 0xF029 + 0x100 * x.val := by
  have h : (encodeWord (.ldFVx x)).toNat = 0xF000 + 0x100 * x.val + 0x29 := toNat_formatXnn 0xF x 0x29
  omega

/-- Settles O40: the one write is of the glyph's address, which admitted parameters keep from wrapping. -/
theorem glyphAddressIsExact : Obligations.GlyphAddressIsExact :=
  fun x s => ⟨toNat_encodeWord_ldFVx x, fun hp => ⟨_, rfl, rfl, toNat_glyphAddr hp (s.getV x)⟩⟩

/-! #### What a store leaves in memory (20_memory R53) -/

/-- Each byte stored from `a` up reads back from its place. -/
theorem State.readByte_storeBytes_add {l : List Byte} {a j : Nat} (ha : a + l.length ≤ 0x1000) (hj : j < l.length) :
    (s.storeBytes a l).readByte (a + j) = l[j] := by
  rw [State.readByte_storeBytes _ _ _ _ ha, dif_pos (by omega)]
  simp only [Nat.add_sub_cancel_left]

/-- A byte outside the range of a store is unchanged. -/
theorem State.readByte_storeBytes_of_outside {l : List Byte} {a c : Nat} (ha : a + l.length ≤ 0x1000)
    (hc : c < a ∨ a + l.length ≤ c) : (s.storeBytes a l).readByte c = s.readByte c := by
  rw [State.readByte_storeBytes _ _ _ _ ha, dif_neg (by omega)]

/-! #### Digits (R153) -/

@[simp] theorem length_decimalDigits (b : Byte) : (decimalDigits b).length = 3 := rfl

/-- Each digit is below 10, so a byte holds it. -/
theorem toNat_decimalDigits (b : Byte) :
    (decimalDigits b)[0].toNat = b.toNat / 100 ∧ (decimalDigits b)[1].toNat = b.toNat / 10 % 10 ∧
      (decimalDigits b)[2].toNat = b.toNat % 10 := by
  have := b.isLt
  refine ⟨?_, ?_, ?_⟩ <;> exact (BitVec.toNat_ofNat ..).trans (Nat.mod_eq_of_lt (by omega))

/-- With its range in memory FX33 is its store. -/
theorem exec_ldBVx_of_inRange (x : Reg) (h : s.i.toNat + 2 ≤ 0xFFF) :
    exec (.ldBVx x) s = .next (s.storeBytes s.i.toNat (decimalDigits (s.getV x))) := by
  rw [exec_ldBVx, execLdBVx, State.withRange_ok _ _ _ _ _ (by omega)]

/-- Settles O41: the three bytes stored are the digits. -/
theorem bcdStoresThreeDigits : Obligations.BcdStoresThreeDigits := by
  intro x s h
  have hrange : s.i.toNat + (decimalDigits (s.getV x)).length ≤ 0x1000 := by rw [length_decimalDigits]; omega
  obtain ⟨hundreds, tens, ones⟩ := toNat_decimalDigits (s.getV x)
  refine ⟨_, exec_ldBVx_of_inRange x h, State.storeBytes_eq .., ?_, ?_, ?_, fun a ha => ?_⟩
  · exact (congrArg BitVec.toNat (State.readByte_storeBytes_add (j := 0) hrange _)).trans hundreds
  · exact (congrArg BitVec.toNat (State.readByte_storeBytes_add hrange _)).trans tens
  · exact (congrArg BitVec.toNat (State.readByte_storeBytes_add hrange _)).trans ones
  · exact State.readByte_storeBytes_of_outside hrange (by rw [length_decimalDigits]; omega)

/-! #### Registers to and from memory (R154, R155) -/

/-- With its range in memory FX55 is its store. -/
theorem exec_ldMemVx_of_inRange {x : Reg} (h : s.i.toNat + x.val ≤ 0xFFF) :
    exec (.ldMemVx x) s = .next (s.storeBytes s.i.toNat (s.regsUpTo x)) := by
  rw [exec_ldMemVx, execLdMemVx, State.withRange_ok _ _ _ _ _ (by rw [regCount]; omega)]

/-- Settles O42: the bytes stored are those of V0 to V[X], X + 1 of them. -/
theorem registerDumpStoresRange : Obligations.RegisterDumpStoresRange := by
  intro x s h
  have hlen := s.length_regsUpTo x
  refine ⟨_, exec_ldMemVx_of_inRange h, State.storeBytes_eq .., fun r => ?_, fun a ha => ?_⟩
  · exact State.readByte_storeBytes_regsUpTo h
  · exact State.readByte_storeBytes_of_outside (by omega) (by omega)

/-- With its range in memory FX65 is its load. -/
theorem exec_ldVxMem_of_inRange {x : Reg} (h : s.i.toNat + x.val ≤ 0xFFF) :
    exec (.ldVxMem x) s = .next (s.setVs 0 (s.loadBytes s.i.toNat (regCount x))) := by
  rw [exec_ldVxMem, execLdVxMem, State.withRange_ok _ _ _ _ _ (by rw [regCount]; omega)]

/-- The bytes at `a` up, loaded into the first `n` registers. -/
theorem State.getV_setVs_loadBytes (s : State) (a n : Nat) (r : Reg) :
    (s.setVs 0 (s.loadBytes a n)).getV r = if r.val < n then s.readByte (a + r.val) else s.getV r := by
  simp only [State.getV_setVs, State.getElem_loadBytes, State.length_loadBytes, Nat.zero_le, true_and, Nat.zero_add,
    Nat.sub_zero, dite_eq_ite]

theorem lt_regCount {x r : Reg} : r.val < regCount x ↔ r ≤ x := Nat.lt_succ_iff

/-- Settles O43: the registers loaded are the first X + 1. -/
theorem registerLoadReadsRange : Obligations.RegisterLoadReadsRange := by
  refine fun x s h => ⟨_, exec_ldVxMem_of_inRange h, State.setVs_eq .., fun r hr => ?_, fun r hr => ?_⟩
  · rw [State.getV_setVs_loadBytes, if_pos (lt_regCount.mpr hr)]
  · rw [State.getV_setVs_loadBytes, if_neg (mt lt_regCount.mp hr.not_ge)]

end Sys2Proof.Machine

/-! ### 43_display: the writers of the display, CLS and DRW (R170 to R174) -/

namespace Sys2Proof.Machine

variable {i : Instr} {s s0 t : State} {input : CycleInput} {x y : Reg} {n : Nibble} {cx : Fin 64} {cy : Fin 32}

/-! #### The writers of the display (R174) -/

/-- An error leaves the display alone, and so does every completed instruction that is not one of the two. -/
theorem eq_cls_or_drw_of_exec_disp_ne (h : exec i s = .next t) (hne : t.disp ≠ s.disp) :
    i = .cls ∨ ∃ x y n, i = .drw x y n := by
  obtain ⟨_, _, -, rfl⟩ | ⟨-, hc⟩ := exec_cases h
  · exact absurd rfl hne
  cases i with
  | cls => exact .inl rfl
  | drw x y n => exact .inr ⟨x, y, n, rfl⟩
  | ret => obtain ⟨_, _, -, rfl⟩ := hc; exact absurd rfl hne
  | ldVxK x => obtain ⟨rfl, -⟩ | ⟨_, _, -, -, rfl⟩ := hc <;> exact absurd rfl hne
  | _ => cases hc; exact absurd rfl hne

theorem State.unknownOutcome_disp (s : State) (w : Word16) : (s.unknownOutcome w).disp = s.disp := by
  obtain ⟨-, e⟩ | ⟨-, e⟩ := s.unknownOutcome_cases w <;> exact (congrArg State.disp e :)

theorem State.loadRom_disp (s : State) (bytes : List Byte) : (s.loadRom bytes).disp = s.disp := by
  unfold State.loadRom
  split
  · rfl
  · rw [State.storeBytes_eq]
    rfl

theorem State.HostNext.disp_eq {h : HostStep} (hn : s.HostNext h s0) : s0.disp = s.disp := by
  obtain ⟨l, n, rfl⟩ := hn.frame
  rfl

/-- A cycle that changes the display fetched the word of one of the two writers. -/
theorem decodeWord_of_cycle_disp_ne (h : cycle input s = .next t) (hne : t.disp ≠ s.disp) :
    decodeWord s.fetchWord = some .cls ∨ ∃ x y n, decodeWord s.fetchWord = some (.drw x y n) := by
  obtain ⟨-, ⟨-, rfl⟩ | ⟨-, i, hd, hex⟩ | ⟨-, -, rfl⟩⟩ := cycle_cases s t input h
  · exact absurd rfl hne
  · obtain rfl | ⟨x, y, n, rfl⟩ := eq_cls_or_drw_of_exec_disp_ne hex hne
    · exact .inl hd
    · exact .inr ⟨x, y, n, hd⟩
  · exact absurd ((s.handed input).unknownOutcome_disp _) hne

/-- Settles O15: by the kind of the step; taking the turn keeps the display, and so does every host operation but Reset. -/
theorem displayWrittenOnlyByClsDrwReset : Obligations.DisplayWrittenOnlyByClsDrwReset := by
  refine ⟨fun s t h hne => ?_, fun _ => rfl⟩
  obtain ⟨s0, ⟨input, hn, hc⟩ | ⟨p, hn, -, rfl⟩ | ⟨bytes, hn, -, rfl⟩ | ⟨hn, rfl⟩ | ⟨hn | hn, rfl⟩⟩ := step_cases s t h
  · rw [← hn.disp_eq] at hne
    exact .inr ⟨input, s0, hn, hn.fetchWord_eq ▸ decodeWord_of_cycle_disp_ne hc hne⟩
  · exact .inl ⟨p, s0, hn⟩
  · exact absurd ((s0.loadRom_disp bytes).trans hn.disp_eq) hne
  · exact absurd hn.disp_eq hne
  · exact absurd hn.disp_eq hne
  · exact absurd hn.disp_eq hne

/-! #### CLS (R170) -/

@[simp] theorem Display.cell_clear (cx : Fin 64) (cy : Fin 32) : Display.cell Display.clear cx cy = false := by
  simp only [Display.cell, Display.clear, Vector.getElem_replicate, BitVec.ofNat_eq_ofNat, BitVec.getLsbD_zero]

/-- Settles O46: the word is fixed, and the display written is the cleared one. -/
theorem clearScreenUnsetsEveryCell : Obligations.ClearScreenUnsetsEveryCell :=
  ⟨rfl, fun _ => ⟨_, rfl, rfl, Display.cell_clear⟩⟩

/-! #### DRW (R171, R172) -/

/-- With its range in memory, or with no row to draw, DRW is its draw. -/
theorem exec_drw_of_inRange (x y : Reg) (h : n = 0 ∨ s.i.toNat + n.toNat - 1 ≤ 0xFFF) :
    exec (.drw x y n) s = .next (s.drawSprite x y n.toNat) := by
  have hrange : n.toNat = 0 ∨ s.i.toNat + n.toNat ≤ 0x1000 := by
    obtain rfl | h := h
    · exact .inl rfl
    · omega
  rw [exec_drw, execDrw, State.withRange_ok _ _ _ _ _ hrange]

/-- The cells DRW flips, in the order it flips them. -/
def State.drawnCells (s : State) (x y : Reg) (n : Nat) : List (Fin 64 × Fin 32) :=
  spriteCells (s.getV x).toNat (s.getV y).toNat 0 (s.loadBytes s.i.toNat n)

/-- DRW finds one of its cells set. -/
def State.drawHits (s : State) (x y : Reg) (n : Nat) : Bool := (flipCells s.disp false (s.drawnCells x y n)).2

/-- A flipped cell is one a 1-bit covers: it is the same to wrap the coordinates before the offset is added as after. -/
theorem State.mem_drawnCells {n : Nat} : (cx, cy) ∈ s.drawnCells x y n ↔ s.Covers x y n cx cy := by
  simp only [State.drawnCells, mem_spriteCells, State.Covers, State.length_loadBytes, State.getElem_loadBytes, spriteBit,
    Nat.mod_add_mod, Nat.zero_add, exists_prop, exists_and_left]
  tauto

/-- A sprite has at most 15 rows, so none of its cells comes twice. -/
theorem State.drawnCells_nodup (s : State) (x y : Reg) (n : Nibble) : (s.drawnCells x y n.toNat).Nodup :=
  spriteCells_nodup _ _ _ 0 (by rw [State.length_loadBytes]; have := n.isLt; omega)

theorem State.cell_drawSprite (s : State) (x y : Reg) (n : Nibble) (cx : Fin 64) (cy : Fin 32) :
    Display.cell (s.drawSprite x y n.toNat).disp cx cy =
      (Display.cell s.disp cx cy ^^ decide ((cx, cy) ∈ s.drawnCells x y n.toNat)) :=
  (flipCells_spec _ s.disp false (s.drawnCells_nodup x y n)).1 cx cy

theorem State.cell_drawSprite_ne_iff :
    Display.cell (s.drawSprite x y n.toNat).disp cx cy ≠ Display.cell s.disp cx cy ↔ s.Covers x y n.toNat cx cy := by
  rw [State.cell_drawSprite, ← State.mem_drawnCells]
  cases Display.cell s.disp cx cy <;> simp

theorem State.drawHits_eq_true_iff :
    s.drawHits x y n.toNat = true ↔ ∃ cx cy, s.Covers x y n.toNat cx cy ∧ Display.cell s.disp cx cy = true := by
  rw [State.drawHits, (flipCells_spec _ s.disp false (s.drawnCells_nodup x y n)).2]
  simp only [Bool.false_eq_true, false_or, Prod.exists, State.mem_drawnCells]

theorem State.getV_drawSprite_flag (s : State) (x y : Reg) (n : Nat) :
    (s.drawSprite x y n).getV Reg.flag = flagByte (s.drawHits x y n) :=
  State.getV_setV_self ..

theorem flagByte_eq_one_iff {f : Bool} : flagByte f = 1 ↔ f = true := by cases f <;> decide

theorem flagByte_eq_zero_iff {f : Bool} : flagByte f = 0 ↔ ¬f = true := by cases f <;> decide

theorem State.flag_drawSprite_eq_one_iff :
    (s.drawSprite x y n.toNat).getV Reg.flag = 1 ↔
      ∃ cx cy, s.Covers x y n.toNat cx cy ∧ Display.cell s.disp cx cy = true := by
  rw [State.getV_drawSprite_flag, flagByte_eq_one_iff, State.drawHits_eq_true_iff]

theorem State.flag_drawSprite_eq_zero_iff :
    (s.drawSprite x y n.toNat).getV Reg.flag = 0 ↔
      ¬∃ cx cy, s.Covers x y n.toNat cx cy ∧ Display.cell s.disp cx cy = true := by
  rw [State.getV_drawSprite_flag, flagByte_eq_zero_iff, State.drawHits_eq_true_iff]

/-- Settles O47: the cells flipped are the covered ones, each once, and VF, written last, is the collision. -/
theorem drawFlipsCoveredCells : Obligations.DrawFlipsCoveredCells :=
  fun x y _ _ h => ⟨_, exec_drw_of_inRange x y h, rfl, fun _ _ => State.cell_drawSprite_ne_iff,
    State.flag_drawSprite_eq_one_iff.mpr, State.flag_drawSprite_eq_zero_iff.mpr, State.setV_keeps_others _ Reg.flag _⟩

/-! #### Draws after a draw and after CLS (R173) -/

/-- A display is its cells. -/
theorem Display.ext_cell {d e : Display} (h : ∀ cx cy, Display.cell d cx cy = Display.cell e cx cy) : d = e :=
  Vector.ext fun y hy => BitVec.eq_of_getLsbD_eq fun x hx => h ⟨x, hx⟩ ⟨y, hy⟩

/-- Where a sprite falls is read from V[X], V[Y], I and memory alone. -/
theorem State.drawnCells_congr {u : State} (hx : u.getV x = s.getV x) (hy : u.getV y = s.getV y) (hi : u.i = s.i)
    (hm : u.mem = s.mem) (hp : u.params = s.params) (n : Nat) : u.drawnCells x y n = s.drawnCells x y n := by
  simp only [State.drawnCells, State.loadBytes, State.readByte, hx, hy, hi, hm, hp]

/-- A draw after a draw of the same cells flips each of them back. -/
theorem State.drawSprite_disp_of_drawn {u : State} (hd : u.disp = (s.drawSprite x y n.toNat).disp)
    (hc : u.drawnCells x y n.toNat = s.drawnCells x y n.toNat) : (u.drawSprite x y n.toNat).disp = s.disp := by
  refine Display.ext_cell fun cx cy => ?_
  rw [State.cell_drawSprite, hc, hd, State.cell_drawSprite, Bool.xor_assoc, Bool.xor_self, Bool.xor_false]

/-- Settles O48: the two draws flip the same cells, and a covered cell is set before the second exactly when it was unset
before the first. -/
theorem drawingTwiceRestoresDisplay : Obligations.DrawingTwiceRestoresDisplay := by
  intro x y n s t u w h ht hu hx hy hw
  cases (exec_drw_of_inRange x y h).symm.trans ht
  have hi : u.i = s.i := (congrArg State.i hu :)
  have hd : u.disp = (s.drawSprite x y n.toNat).disp := (congrArg State.disp hu :)
  have hc := State.drawnCells_congr hx hy hi (congrArg State.mem hu :) (congrArg State.params hu :) n.toNat
  cases (exec_drw_of_inRange x y (hi ▸ h)).symm.trans hw
  refine ⟨State.drawSprite_disp_of_drawn hd hc, ?_⟩
  rw [State.flag_drawSprite_eq_one_iff]
  refine exists₂_congr fun cx cy => ?_
  rw [← State.mem_drawnCells, hc, State.mem_drawnCells, hd, ← State.cell_drawSprite_ne_iff]
  cases Display.cell s.disp cx cy <;> simp

/-- On a cleared display a draw sets the covered cells and no other. -/
theorem State.cell_drawSprite_of_clear (hd : s.disp = Display.clear) :
    Display.cell (s.drawSprite x y n.toNat).disp cx cy = true ↔ s.Covers x y n.toNat cx cy := by
  rw [← State.cell_drawSprite_ne_iff, hd, Display.cell_clear, Bool.ne_false_iff]

/-- On a cleared display no covered cell is set. -/
theorem State.flag_drawSprite_of_clear (hd : s.disp = Display.clear) :
    (s.drawSprite x y n.toNat).getV Reg.flag = 0 := by
  rw [State.flag_drawSprite_eq_zero_iff, hd]
  rintro ⟨cx, cy, -, hset⟩
  exact Bool.false_ne_true ((Display.cell_clear cx cy).symm.trans hset)

/-- Settles O49: the draw runs on the cleared display, and CLS and the advance of pc leave where the sprite falls. -/
theorem clearThenDrawShowsSprite : Obligations.ClearThenDrawShowsSprite :=
  fun x y _ _ h => ⟨_, _, rfl, exec_drw_of_inRange x y h, State.flag_drawSprite_of_clear rfl,
    fun _ _ => State.cell_drawSprite_of_clear rfl⟩

end Sys2Proof.Machine

/-! ### 44_input_timers: keys and timers (R190 to R196) -/

namespace Sys2Proof.Machine

variable {s : State}

/-! #### Skips on a key (R190 to R192) -/

theorem keyDown_eq_true {keys : Word16} {k : Byte} :
    keyDown keys k = true ↔ k.toNat ≤ 15 ∧ keys.getLsbD k.toNat = true := by
  rw [keyDown, Bool.and_eq_true, decide_eq_true_eq]

/-- Settles O50: the two skips test the same `keyDown`, SKNP its negation. -/
theorem keySkipsReadSnapshot : Obligations.KeySkipsReadSnapshot := by
  refine fun x s => ⟨?_, ?_⟩
  · rw [exec_skp, execSkp, State.skipIf_eq_ite]
    simp only [keyDown_eq_true]
  · rw [exec_sknp, execSknp, State.skipIf_eq_ite]
    simp only [Bool.not_eq_true', ← Bool.not_eq_true, ite_not, keyDown_eq_true]

/-! #### Moves from and to a timer (R193 to R195) -/

/-- The words of the FX rows. -/
theorem toNat_formatXnn_fx (x : Reg) (nn : Byte) :
    (formatXnn 0xF x nn).toNat = 0xF000 + nn.toNat + 0x100 * x.val := by
  have h : (formatXnn 0xF x nn).toNat = 0xF000 + 0x100 * x.val + nn.toNat := toNat_formatXnn 0xF x nn
  omega

/-- Settles O51: the words are those of the FX rows, and each move writes its one destination. -/
theorem timerMovesCopyValues : Obligations.TimerMovesCopyValues := by
  refine fun x s => ⟨?_, ?_, ?_, ?_, rfl, rfl⟩
  · exact toNat_formatXnn_fx x 0x07
  · exact toNat_formatXnn_fx x 0x15
  · exact toNat_formatXnn_fx x 0x18
  · exact ⟨_, rfl, rfl, s.getV_setV_self x _, s.setV_keeps_others x _⟩

/-! #### The wait for a key (R196) -/

/-- FX0A waits on at its first presentation, and at a later one without a newly pressed key. -/
theorem exec_ldVxK_of_no_key (x : Reg) (h : ∀ b, s.wait = some b → newlyPressed s.input.keys b = none) :
    exec (.ldVxK x) s = .next s.keepWaiting := by
  rw [exec_ldVxK, execLdVxK]
  cases hw : s.wait with
  | none => rfl
  | some b => simp only [h b hw]

theorem exec_ldVxK_of_newlyPressed (x : Reg) {b : Word16} {k : Nat} (hw : s.wait = some b)
    (hk : newlyPressed s.input.keys b = some k) :
    exec (.ldVxK x) s = .next ((s.setV x (BitVec.ofNat 8 k)).setWait none) := by
  simp only [exec_ldVxK, execLdVxK, hw, hk]

/-- Settles O52: no baseline and no newly pressed key both wait on; the key taken is the one `newlyPressed` finds, and its
number, below 16, fits V[X]. -/
theorem keyWaitResolvesOnNewPress : Obligations.KeyWaitResolvesOnNewPress := by
  refine fun x s => ⟨fun hw => ?_, fun b hw hno => ?_, fun b k hw hlt hdown hup hlowest => ?_⟩
  · exact exec_ldVxK_of_no_key x fun b hb => nomatch hw.symm.trans hb
  · refine exec_ldVxK_of_no_key x fun b' hb => ?_
    cases hw.symm.trans hb
    exact (newlyPressed_eq_none ..).mpr hno
  · have hk : newlyPressed s.input.keys b = some k := (newlyPressed_eq_some ..).mpr ⟨hlt, hdown, hup, hlowest⟩
    have hx : ((s.setV x (BitVec.ofNat 8 k)).getV x).toNat = k := by
      rw [State.getV_setV_self, BitVec.toNat_ofNat, Nat.mod_eq_of_lt (by omega)]
    exact ⟨_, exec_ldVxK_of_newlyPressed x hw hk, rfl, hx, s.setV_keeps_others x _⟩

end Sys2Proof.Machine

/-! ### 60_exceptions: errors of an instruction, the inputs of a cycle, the host's order (R210 to R238) -/

namespace Sys2Proof.Machine

variable {i : Instr} {s s0 t u : State} {op : HostStep} {n : CycleInput}

/-- Settles O11: the errors are those of `Raises`, and a completed instruction leaves `err` alone. -/
theorem everyInstructionAnswersNextState : Obligations.EveryInstructionAnswersNextState := by
  intro i s
  obtain ⟨t, he, -⟩ := exec_recordUpdate i s
  refine ⟨t, he, ?_⟩
  obtain ⟨kind, addr, hr, ht⟩ | ⟨-, hc⟩ := exec_cases he
  · refine .inr ⟨kind, addr, ht, ?_⟩
    cases hr with
    | ret => exact .inl ⟨rfl, rfl, rfl⟩
    | call nnn => exact .inr (.inl ⟨nnn, rfl, rfl, rfl⟩)
    | drw x y n => exact .inr (.inr ⟨rfl, rfl, .inl ⟨x, y, n, rfl⟩⟩)
    | ldBVx x => exact .inr (.inr ⟨rfl, rfl, .inr ⟨x, .inl rfl⟩⟩)
    | ldMemVx x => exact .inr (.inr ⟨rfl, rfl, .inr ⟨x, .inr (.inl rfl)⟩⟩)
    | ldVxMem x => exact .inr (.inr ⟨rfl, rfl, .inr ⟨x, .inr (.inr rfl)⟩⟩)
  · exact .inl hc.err_eq

/-! #### The inputs of a cycle (R232) -/

/-- A completed instruction has one next state. -/
theorem Completes.unique (ht : Completes i s t) (hu : Completes i s u) : t = u := by
  cases i with
  | ret =>
    obtain ⟨rest, a, hs, rfl⟩ := ht
    obtain ⟨rest', a', hs', rfl⟩ := hu
    obtain ⟨rfl, e⟩ := List.append_inj' (hs.symm.trans hs') rfl
    cases e
    rfl
  | ldVxK x =>
    obtain ⟨rfl, hno⟩ | ⟨b, k, hw, hk, rfl⟩ := ht <;> obtain ⟨rfl, hno'⟩ | ⟨b', k', hw', hk', rfl⟩ := hu
    · rfl
    · exact nomatch (hno b' hw').symm.trans hk'
    · exact nomatch (hno' b hw).symm.trans hk
    · cases hw.symm.trans hw'
      cases hk.symm.trans hk'
      rfl
  | _ => cases ht; cases hu; rfl

/-- An instruction with no error to raise does what it does when it completes. -/
theorem Completes.exec_eq (hc : Completes i s t) (hr : ∀ kind addr, ¬Raises s i kind addr) : exec i s = .next t := by
  obtain ⟨u, he, -⟩ := exec_recordUpdate i s
  obtain ⟨kind, addr, h, -⟩ | ⟨-, hu⟩ := exec_cases he
  · exact absurd h (hr kind addr)
  · exact hc.unique hu ▸ he

/-- Which error an instruction raises is told from the stack, its depth and I. -/
theorem Raises.congr {kind : ErrKind} {addr : Option Nat} (h : Raises s i kind addr) (hstack : u.stack = s.stack)
    (hparams : u.params = s.params) (hi : u.i = s.i) : Raises u i kind addr := by
  cases h with
  | ret h => exact .ret (by rwa [hstack])
  | call nnn h => exact .call nnn (by rwa [hstack, hparams])
  | drw x y n h => exact .drw x y n (by rwa [hi])
  | ldBVx x h => exact .ldBVx x (by rwa [hi])
  | ldMemVx x h => exact .ldMemVx x (by rwa [hi])
  | ldVxMem x h => exact .ldVxMem x (by rwa [hi])

/-- The two inputs agree in what the instruction reads of them: the keys for EX9E, EXA1 and FX0A, the random byte
for CXNN. -/
def InputsAgree (i : Instr) (m n : CycleInput) : Prop :=
  match i with
  | .skp _ | .sknp _ | .ldVxK _ => n.keys = m.keys
  | .rnd _ _ => n.rnd = m.rnd
  | _ => True

theorem Completes.setInput (hc : Completes i s t) (hn : InputsAgree i s.input n) :
    Completes i (s.setInput n) (t.setInput n) := by
  have hstore := State.storeBytes_comm (f := (State.setInput · n)) fun _ _ _ => rfl
  have hload := State.setVs_comm (f := (State.setInput · n)) fun _ _ _ => rfl
  cases i with
  | skp x | sknp x =>
    have hn : n.keys = s.input.keys := hn
    cases hc
    simp only [Completes, exec_skp, exec_sknp, execSkp, execSknp, State.setInput_input, hn]
    rfl
  | ldVxK x =>
    have hn : n.keys = s.input.keys := hn
    simp only [Completes, State.keepWaiting, State.setInput_input, State.setInput_wait, hn]
    obtain ⟨rfl, hno⟩ | ⟨b, k, hw, hk, rfl⟩ := hc
    · exact .inl ⟨rfl, hno⟩
    · exact .inr ⟨b, k, hw, hk, rfl⟩
  | rnd x nn =>
    have hn : n.rnd = s.input.rnd := hn
    cases hc
    simp only [Completes, exec_rnd, execRnd, State.setInput_input, hn]
    rfl
  | ret => obtain ⟨rest, a, hs, rfl⟩ := hc; exact ⟨rest, a, hs, rfl⟩
  | ldBVx x => cases hc; simp only [Completes, hstore]; rfl
  | ldMemVx x => cases hc; simp only [Completes, hstore]; rfl
  | ldVxMem x => cases hc; simp only [Completes, hload]; rfl
  | _ => cases hc; rfl

/-- An instruction does the same with any input that agrees in what it reads. -/
theorem exec_setInput (he : exec i s = .next t) (hn : InputsAgree i s.input n) :
    exec i (s.setInput n) = .next (t.setInput n) := by
  obtain ⟨kind, addr, hr, rfl⟩ | ⟨hr, hc⟩ := exec_cases he
  · exact (hr.congr rfl rfl rfl : Raises (s.setInput n) i kind addr).exec_eq
  · exact (hc.setInput hn).exec_eq fun kind addr h => hr kind addr (h.congr rfl rfl rfl)

theorem State.RecordUpdate.input_eq (h : s.RecordUpdate t) : t.input = s.input :=
  (congrArg State.input (h : t = _) :)

/-- Settles O23: with the other input unchanged, every instruction outside the readers' list finds what it reads. -/
theorem cycleInputsMatterOnlyToTheirReaders : Obligations.CycleInputsMatterOnlyToTheirReaders := by
  intro i s t keys rnd he
  rw [(recordUpdate_of_exec he).input_eq]
  refine ⟨fun hi => exec_setInput he ?_, fun hi => exec_setInput he ?_⟩
  · cases i with
    | skp x => exact absurd rfl (hi x).1
    | sknp x => exact absurd rfl (hi x).2.1
    | ldVxK x => exact absurd rfl (hi x).2.2
    | rnd x nn => rfl
    | _ => trivial
  · cases i with
    | rnd x nn => exact absurd rfl (hi x nn)
    | skp x | sknp x | ldVxK x => rfl
    | _ => trivial

/-! #### The host's turn (R238) -/

theorem State.takeHostStep_of_schedule {rest : List HostStep} (hs : s.schedule = op :: rest) :
    s.takeHostStep = (op, s.setSchedule rest) := by
  simp only [State.takeHostStep, hs]

theorem State.takeHostStep_of_standing {rest : List HostStep} (hs : s.schedule = []) (hst : s.standing = op :: rest) :
    s.takeHostStep = (op, s.setSchedule rest) := by
  simp only [State.takeHostStep, hs, hst]

theorem State.takeHostStep_of_free (hs : s.schedule = []) (hst : s.standing = []) :
    s.takeHostStep = (Config.freeHostStep s.freeIndex, s.setFreeIndex (s.freeIndex + 1)) := by
  simp only [State.takeHostStep, hs, hst]

/-- The host takes one turn, so one state has it taken. -/
theorem State.HostNext.unique {op' : HostStep} (hn : s.HostNext op s0) (hn' : s.HostNext op' u) : u = s0 :=
  congrArg Prod.snd (hn'.symm.trans hn : (op', u) = (op, s0))

/-- `t` has the host's steps to come that `s` has (logs 1 and 2). -/
def State.SameOrder (s t : State) : Prop :=
  t.schedule = s.schedule ∧ t.standing = s.standing ∧ t.freeIndex = s.freeIndex

theorem State.RecordUpdate.sameOrder (h : s.RecordUpdate t) : s.SameOrder t := by
  rw [h]
  exact ⟨rfl, rfl, rfl⟩

theorem State.loadRom_sameOrder (s : State) (bytes : List Byte) : s.SameOrder (s.loadRom bytes) := by
  unfold State.loadRom
  split
  · exact ⟨rfl, rfl, rfl⟩
  · exact ((s.setFresh false).recordUpdate_storeBytes programStart bytes).sameOrder

/-- Settles O57: by the kind of the step; no operation writes the host's steps to come, Reset among them (log 6). -/
theorem hostOrderIsFollowed : Obligations.HostOrderIsFollowed := by
  refine ⟨fun s h rest => State.takeHostStep_of_schedule rfl, fun s t s0 h hn hstep => ?_,
    fun s => State.takeHostStep_of_free⟩
  obtain ⟨u, ⟨input, hu, hc⟩ | ⟨p, hu, -, rfl⟩ | ⟨bytes, hu, -, rfl⟩ | ⟨hu, rfl⟩ | ⟨hu | hu, rfl⟩⟩ :=
    step_cases s t hstep <;> cases hn.unique hu
  · exact (recordUpdate_of_cycle hc).sameOrder
  · exact ⟨rfl, rfl, rfl⟩
  · exact s0.loadRom_sameOrder bytes
  · exact ⟨rfl, rfl, rfl⟩
  · exact ⟨rfl, rfl, rfl⟩
  · exact ⟨rfl, rfl, rfl⟩

/-! #### A standing order (R235, R238) -/

/-- The standing order is `l` and the turn to come is its `n`-th: the schedule holds what is left of this round, or the
round is to begin. -/
def State.AtTurn (s : State) (l : List HostStep) (n : Nat) : Prop :=
  s.standing = l ∧ (s.schedule = l.drop (n % l.length) ∨ s.schedule = [] ∧ n % l.length = 0)

theorem State.AtTurn.takeHostStep_eq {l : List HostStep} {n : Nat} (ha : s.AtTurn l n) (hlt : n % l.length < l.length) :
    s.takeHostStep = (l[n % l.length], s.setSchedule (l.drop (n % l.length + 1))) := by
  obtain ⟨hst, hs | ⟨hs, h0⟩⟩ := ha
  · exact State.takeHostStep_of_schedule (hs.trans (List.drop_eq_getElem_cons hlt))
  · refine State.takeHostStep_of_standing hs (hst.trans ?_)
    rw [← List.drop_eq_getElem_cons hlt, h0, List.drop_zero]

/-- Taking a turn moves on by one, at the end of a round to the start of the next. -/
theorem State.AtTurn.next {l : List HostStep} {n : Nat} (ha : s.AtTurn l n) (hlt : n % l.length < l.length) :
    s.takeHostStep.2.AtTurn l (n + 1) := by
  rw [ha.takeHostStep_eq hlt]
  refine ⟨ha.1, ?_⟩
  rw [State.setSchedule_schedule, ← Nat.mod_add_mod]
  by_cases hround : n % l.length + 1 = l.length
  · rw [hround]
    exact .inr ⟨List.drop_length, Nat.mod_self _⟩
  · rw [Nat.mod_eq_of_lt (show n % l.length + 1 < l.length by omega)]
    exact .inl rfl

theorem State.AtTurn.afterTurns {l : List HostStep} (hl : l ≠ []) (n : Nat) : ∀ {s : State} {m : Nat},
    s.AtTurn l m → (State.afterTurns n s).AtTurn l (n + m) := by
  induction n with
  | zero => intro s m ha; rwa [Nat.zero_add]
  | succ n ih =>
    intro s m ha
    rw [Nat.add_right_comm]
    exact ih (ha.next (Nat.mod_lt m (List.length_pos_iff.mpr hl)))

/-- Settles O58: the standing order is at its 0-th turn before the first, and at its `n`-th after `n` turns. -/
theorem standingOrderComesOverAndOver : Obligations.StandingOrderComesOverAndOver := by
  intro s l n hs hst hl
  have hstart : s.AtTurn l 0 := ⟨hst, .inr ⟨hs, Nat.zero_mod _⟩⟩
  have ha : (State.afterTurns n s).AtTurn l n := hstart.afterTurns hl n
  rw [ha.takeHostStep_eq (Nat.mod_lt n (List.length_pos_iff.mpr hl))]

/-! #### Tick, Stop and Read (R233 to R235) -/

theorem toNat_countDown (b : Byte) : (countDown b).toNat = if b.toNat > 0 then b.toNat - 1 else 0 := by
  have := b.isLt
  rw [countDown, BitVec.toNat_ofNat]
  split <;> omega

/-- Settles O53: taking the turn keeps the timers, and the step is `tick`. -/
theorem tickCountsBothTimersDown : Obligations.TickCountsBothTimersDown := by
  intro s s0 hn
  refine ⟨s0.tick, step_of_hostNext s .tick s0 hn, rfl, ?_⟩
  obtain ⟨l, n, rfl⟩ := hn.frame
  exact ⟨toNat_countDown s.dt, toNat_countDown s.st⟩

/-- Settles O56: both steps are the turn alone; after a Stop the turn taken leaves the Cycle first in the schedule. -/
theorem stopAndReadChangeNothing : Obligations.StopAndReadChangeNothing := by
  refine ⟨fun s s0 hn => ⟨?_, ?_⟩, fun s input rest hs => ?_, fun s => ?_⟩
  · obtain hn | hn := hn <;> exact step_of_hostNext s _ s0 hn
  · obtain ⟨l, n, rfl⟩ : ∃ l n, s0 = { s with schedule := l, freeIndex := n } := hn.elim (·.frame) (·.frame)
    rfl
  · have hn : s.HostNext .stop (s.setSchedule (.cycle input :: rest)) := State.takeHostStep_of_schedule hs
    exact ⟨_, step_of_hostNext s .stop _ hn, rfl⟩
  · exact ⟨rfl, rfl, rfl, Option.isSome_iff_ne_none, rfl, rfl⟩

end Sys2Proof.Machine

/-! ### 70_reset: Reset and the load of a ROM (R250 to R253) -/

namespace Sys2Proof.Machine

variable {s s0 : State} {p : Params} {bytes : List Byte} {a : Nat} {op : HostStep}

/-! #### The reset contents of memory (R250) -/

theorem initialByte_fontBase_add (p : Params) (j : Fin 80) : initialByte p (p.fontBase + j.val) = p.fontTable[j.val] := by
  rw [initialByte, dif_pos (by omega)]
  simp only [Nat.add_sub_cancel_left]

theorem initialByte_of_outside_font (ha : a < p.fontBase ∨ p.fontBase + 80 ≤ a) : initialByte p a = 0 :=
  dif_neg (by omega)

/-- Reset lists no byte of memory, so every byte reads as the reset contents. -/
theorem State.resetOp_readByte (s : State) (p : Params) (a : Nat) : (s.resetOp p).readByte a = initialByte p a :=
  rfl

theorem State.resetOp_getV (s : State) (p : Params) (r : Reg) : (s.resetOp p).getV r = 0 :=
  Vector.getElem_replicate r.isLt

/-! #### Reset (R251) -/

theorem step_of_reset_admitted (hn : s.HostNext (.reset p) s0) (hp : p.wellFormed = true) :
    step s = .next (s0.resetOp p) := by
  rw [step_of_hostNext s _ s0 hn, hostStep, if_pos hp]

theorem step_of_reset_not_admitted (hn : s.HostNext (.reset p) s0) (hp : p.wellFormed = false) :
    step s = .refused .parametersNotAdmitted := by
  rw [step_of_hostNext s _ s0 hn, hostStep, hp]
  rfl

/-- Settles O54: an admitted Reset steps to `resetOp`, whose fields are literal but for memory, which is the reset contents,
and the display, which is clear. -/
theorem resetBuildsFreshInstance : Obligations.ResetBuildsFreshInstance := by
  refine fun s s0 p hn => ⟨step_of_reset_not_admitted hn, fun hp => ⟨_, step_of_reset_admitted hn hp, ?_⟩⟩
  have hfont (j : Fin 80) : (s0.resetOp p).readByte (p.fontBase + j.val) = p.fontTable[j.val] :=
    (s0.resetOp_readByte p _).trans (initialByte_fontBase_add p j)
  have hzero (a : Nat) (ha : a < p.fontBase ∨ p.fontBase + 80 ≤ a) : (s0.resetOp p).readByte a = 0 :=
    (s0.resetOp_readByte p a).trans (initialByte_of_outside_font ha)
  exact ⟨hfont, hzero, s0.resetOp_getV p, rfl, rfl, rfl, rfl, rfl, Display.cell_clear, rfl, rfl, rfl, rfl, rfl, rfl, rfl⟩

/-! #### LoadRom (R253) -/

theorem State.HostNext.fresh_eq (hn : s.HostNext op s0) : s0.fresh = s.fresh := by
  obtain ⟨l, n, rfl⟩ := hn.frame
  rfl

theorem State.HostNext.readByte_eq (hn : s.HostNext op s0) (a : Nat) : s0.readByte a = s.readByte a := by
  obtain ⟨l, n, rfl⟩ := hn.frame
  rfl

theorem State.loadRom_of_le (s : State) (hl : bytes.length ≤ maxRom) :
    s.loadRom bytes = (s.setFresh false).storeBytes programStart bytes :=
  if_neg (Nat.not_lt.mpr hl)

theorem State.loadRom_of_gt (s : State) (hl : maxRom < bytes.length) :
    s.loadRom bytes = (s.setFresh false).recordError
      { kind := .romTooLarge, pc := s.pc, opcode := none, addr := none, len := some bytes.length } :=
  if_pos hl

theorem step_of_loadRom_fresh (hn : s.HostNext (.loadRom bytes) s0) (hf : s.fresh = true) :
    step s = .next (s0.loadRom bytes) := by
  rw [step_of_hostNext s _ s0 hn, hostStep, if_pos (hn.fresh_eq.trans hf)]

theorem step_of_loadRom_not_fresh (hn : s.HostNext (.loadRom bytes) s0) (hf : s.fresh = false) :
    step s = .refused .loadNotAdmitted := by
  rw [step_of_hostNext s _ s0 hn, hostStep, hn.fresh_eq, hf]
  rfl

/-- Settles O55: a ROM of at most 3584 bytes ends by 0x1000, so the store of its bytes is in range. -/
theorem loadRomCopiesOrRecordsTooLarge : Obligations.LoadRomCopiesOrRecordsTooLarge := by
  refine fun s s0 bytes hn => ⟨step_of_loadRom_not_fresh hn, fun hf hl => ?_, fun hf hl => ?_⟩
  · have hstep := step_of_loadRom_fresh hn hf
    rw [s0.loadRom_of_le hl] at hstep
    have hrange : programStart + bytes.length ≤ 0x1000 := Nat.add_le_add_left hl programStart
    refine ⟨_, hstep, State.storeBytes_eq .., fun j hj => State.readByte_storeBytes_add hrange hj, fun a ha => ?_⟩
    exact (State.readByte_storeBytes_of_outside hrange ha).trans (hn.readByte_eq a)
  · rw [step_of_loadRom_fresh hn hf, s0.loadRom_of_gt hl, ← hn.pc_eq]
    rfl

end Sys2Proof.Machine
